-- ==== Sys2Proof/Word.lean ====
section
/-! DEFINITION. The bit vectors of the machine (00_scope.md R8): bytes, 16-bit words, 12-bit address immediates and nibbles.
All are unsigned; the machine has no signed operation. -/

namespace Sys2Proof

/-- `byte`: 8 bits (R8). General registers, timers, memory bytes, pixel bytes. -/
abbrev Byte := BitVec 8

/-- `word16`: 16 bits (R8). The instruction word, `I`, `PC`, return addresses. -/
abbrev Word := BitVec 16

/-- The 12-bit address immediate `nnn` (R62, R64). -/
abbrev Addr12 := BitVec 12

/-- A 4-bit register index, the field `x` or `y` (R13, R62): every value names a register. -/
abbrev RegIx := BitVec 4

/-- The 4-bit row count `n` of `draw-sprite` (R62). -/
abbrev Count := BitVec 4

/-- A key digit 0 to 15 (R148). -/
abbrev Digit := BitVec 4

end Sys2Proof
end

