-- ==== Sys2Proof/Syntax.lean ====
section
/-! DEFINITION. The instruction set as syntax: the 35 rows of spec/opcode_table.json (30_encoding.md R66), their names, and the six
formats (R63). -/

namespace Sys2Proof

/-- The six instruction formats of R63. -/
inductive Format where
  | z
  | a
  | xk
  | xy
  | xyn
  | xb
  deriving DecidableEq, Repr

/-- The 35 rows of R66 by name, operands left out. -/
inductive Opcode where
  | clearDisplay | ret | jump | call
  | skipEqualByte | skipNotEqualByte | skipEqualReg | skipNotEqualReg
  | loadByte | addByte
  | move | orReg | andReg | xorReg | addReg | subReg | shiftRight | subtractReversed | shiftLeft
  | loadAddress | jumpWithOffset | randomAndMask | drawSprite
  | skipIfKeyPressed | skipIfKeyNotPressed | loadDelayTimer | waitForKey | setDelayTimer | setSoundTimer
  | addToAddress | loadFontAddress | storeBcd | storeRegisterBlock | loadRegisterBlock
  | sys
  deriving DecidableEq, Repr

/-- One constructor per row of the opcode table (R66), in the table's order, with the row's operand fields. -/
inductive Instr where
  /-- `00E0` (R132). -/
  | clearDisplay
  /-- `00EE`, the table's `return` (R97). -/
  | ret
  /-- `1nnn` (R98). -/
  | jump (nnn : Addr12)
  /-- `2nnn` (R99). -/
  | call (nnn : Addr12)
  /-- `3xkk` (R100). -/
  | skipEqualByte (x : RegIx) (kk : Byte)
  /-- `4xkk` (R101). -/
  | skipNotEqualByte (x : RegIx) (kk : Byte)
  /-- `5xy0` (R102). -/
  | skipEqualReg (x y : RegIx)
  /-- `9xy0` (R103). -/
  | skipNotEqualReg (x y : RegIx)
  /-- `6xkk` (R112). -/
  | loadByte (x : RegIx) (kk : Byte)
  /-- `7xkk` (R113). -/
  | addByte (x : RegIx) (kk : Byte)
  /-- `8xy0` (R114). -/
  | move (x y : RegIx)
  /-- `8xy1` (R115). -/
  | orReg (x y : RegIx)
  /-- `8xy2` (R116). -/
  | andReg (x y : RegIx)
  /-- `8xy3` (R117). -/
  | xorReg (x y : RegIx)
  /-- `8xy4` (R118). -/
  | addReg (x y : RegIx)
  /-- `8xy5` (R119). -/
  | subReg (x y : RegIx)
  /-- `8xy6` (R120); the `y` field is decoded and kept. -/
  | shiftRight (x y : RegIx)
  /-- `8xy7` (R121). -/
  | subtractReversed (x y : RegIx)
  /-- `8xyE` (R122); the `y` field is decoded and kept. -/
  | shiftLeft (x y : RegIx)
  /-- `Annn` (R151). -/
  | loadAddress (nnn : Addr12)
  /-- `Bnnn` (R104). -/
  | jumpWithOffset (nnn : Addr12)
  /-- `Cxkk` (R125). -/
  | randomAndMask (x : RegIx) (kk : Byte)
  /-- `Dxyn` (R133). -/
  | drawSprite (x y : RegIx) (n : Count)
  /-- `Ex9E` (R141). -/
  | skipIfKeyPressed (x : RegIx)
  /-- `ExA1` (R142). -/
  | skipIfKeyNotPressed (x : RegIx)
  /-- `Fx07` (R143). -/
  | loadDelayTimer (x : RegIx)
  /-- `Fx0A` (R144). -/
  | waitForKey (x : RegIx)
  /-- `Fx15` (R145). -/
  | setDelayTimer (x : RegIx)
  /-- `Fx18` (R146). -/
  | setSoundTimer (x : RegIx)
  /-- `Fx1E` (R152). -/
  | addToAddress (x : RegIx)
  /-- `Fx29` (R153). -/
  | loadFontAddress (x : RegIx)
  /-- `Fx33`, the table's `store-BCD` (R154). -/
  | storeBcd (x : RegIx)
  /-- `Fx55` (R155); `x` is the last register of the block. -/
  | storeRegisterBlock (x : RegIx)
  /-- `Fx65` (R156); `x` is the last register of the block. -/
  | loadRegisterBlock (x : RegIx)
  /-- `0nnn` other than `00E0`, `00EE` (R92). -/
  | sys (nnn : Addr12)
  deriving DecidableEq, Repr

/-- The row of an instruction. -/
def Instr.opcode : Instr → Opcode
  | .clearDisplay => .clearDisplay
  | .ret => .ret
  | .jump _ => .jump
  | .call _ => .call
  | .skipEqualByte _ _ => .skipEqualByte
  | .skipNotEqualByte _ _ => .skipNotEqualByte
  | .skipEqualReg _ _ => .skipEqualReg
  | .skipNotEqualReg _ _ => .skipNotEqualReg
  | .loadByte _ _ => .loadByte
  | .addByte _ _ => .addByte
  | .move _ _ => .move
  | .orReg _ _ => .orReg
  | .andReg _ _ => .andReg
  | .xorReg _ _ => .xorReg
  | .addReg _ _ => .addReg
  | .subReg _ _ => .subReg
  | .shiftRight _ _ => .shiftRight
  | .subtractReversed _ _ => .subtractReversed
  | .shiftLeft _ _ => .shiftLeft
  | .loadAddress _ => .loadAddress
  | .jumpWithOffset _ => .jumpWithOffset
  | .randomAndMask _ _ => .randomAndMask
  | .drawSprite _ _ _ => .drawSprite
  | .skipIfKeyPressed _ => .skipIfKeyPressed
  | .skipIfKeyNotPressed _ => .skipIfKeyNotPressed
  | .loadDelayTimer _ => .loadDelayTimer
  | .waitForKey _ => .waitForKey
  | .setDelayTimer _ => .setDelayTimer
  | .setSoundTimer _ => .setSoundTimer
  | .addToAddress _ => .addToAddress
  | .loadFontAddress _ => .loadFontAddress
  | .storeBcd _ => .storeBcd
  | .storeRegisterBlock _ => .storeRegisterBlock
  | .loadRegisterBlock _ => .loadRegisterBlock
  | .sys _ => .sys

end Sys2Proof
end

