-- ==== Sys2Proof/WellFormed.lean ====
section
/-! DEFINITION. Which instruction terms are instructions (30_encoding.md R69, R72). Every operand value is legal in every
instruction but one: `sys nnn` "must not be given 0x0E0 or 0x0EE", whose words are `clear-display` and `return`. -/

namespace Sys2Proof

/-- R69: every `x`, `y`, `kk`, `nnn`, `n` is legal; R72: `sys` excludes the two words of family 0 that rows 1 and 2 own. -/
def wellFormed : Instr → Bool
  | .sys nnn => nnn != 0x0E0#12 && nnn != 0x0EE#12
  | .clearDisplay | .ret => true
  | .jump _ | .call _ | .loadAddress _ | .jumpWithOffset _ => true
  | .skipEqualByte _ _ | .skipNotEqualByte _ _ | .loadByte _ _ | .addByte _ _ | .randomAndMask _ _ => true
  | .skipEqualReg _ _ | .skipNotEqualReg _ _ => true
  | .move _ _ | .orReg _ _ | .andReg _ _ | .xorReg _ _ => true
  | .addReg _ _ | .subReg _ _ | .shiftRight _ _ | .subtractReversed _ _ | .shiftLeft _ _ => true
  | .drawSprite _ _ _ => true
  | .skipIfKeyPressed _ | .skipIfKeyNotPressed _ => true
  | .loadDelayTimer _ | .waitForKey _ | .setDelayTimer _ | .setSoundTimer _ => true
  | .addToAddress _ | .loadFontAddress _ => true
  | .storeBcd _ | .storeRegisterBlock _ | .loadRegisterBlock _ => true

/-- An instruction term that is an instruction. -/
abbrev WellFormed (i : Instr) : Prop := wellFormed i = true

end Sys2Proof
end

