-- ==== Sys2Proof/Decode.lean ====
section
/-! DEFINITION. The opcode map `OPCODES` (30_encoding.md R66), the fields of the instruction word (R62), the decoder (R67, R85) and
the encoder (R73). The numbers are decision D2 (general knowledge but for `6xkk` and `8xy4`), assumption log entry 3. -/

namespace Sys2Proof

/-! ## Byte order (20_memory.md R48) -/

/-- The byte at the lower address: bits 15 to 8 (R61). -/
def hiByte (w : Word) : Byte := w.extractLsb' 8 8

/-- The byte at the higher address: bits 7 to 0 (R61). -/
def loByte (w : Word) : Byte := w.extractLsb' 0 8

/-- `hi : lo`, big-endian (R48). -/
def joinBytes (hi lo : Byte) : Word := hi ++ lo

/-! ## Fields (R62) -/

/-- `x`, `w[11:8]`. -/
def fieldX (w : Word) : RegIx := w.extractLsb' 8 4

/-- `y`, `w[7:4]`. -/
def fieldY (w : Word) : RegIx := w.extractLsb' 4 4

/-- `n`, `w[3:0]`. -/
def fieldN (w : Word) : Count := w.extractLsb' 0 4

/-- `kk`, `w[7:0]`. -/
def fieldKK (w : Word) : Byte := w.extractLsb' 0 8

/-- `nnn`, `w[11:0]` (R64: each family's own word, the family nibble removed and nothing else). -/
def fieldNNN (w : Word) : Addr12 := w.extractLsb' 0 12

/-! ## The opcode map (R66) -/

/-- One row of R66: the instruction is selected exactly when `w &&& mask = bits`. -/
structure OpcodeRow where
  mask : Word
  bits : Word
  format : Format
  deriving DecidableEq, Repr

/-- `OPCODES` (R6, R66): mask, match and format of each row. -/
def opcodeRow : Opcode → OpcodeRow
  | .clearDisplay        => ⟨0xFFFF, 0x00E0, .z⟩
  | .ret                 => ⟨0xFFFF, 0x00EE, .z⟩
  | .jump                => ⟨0xF000, 0x1000, .a⟩
  | .call                => ⟨0xF000, 0x2000, .a⟩
  | .skipEqualByte       => ⟨0xF000, 0x3000, .xk⟩
  | .skipNotEqualByte    => ⟨0xF000, 0x4000, .xk⟩
  | .skipEqualReg        => ⟨0xF00F, 0x5000, .xy⟩
  | .skipNotEqualReg     => ⟨0xF00F, 0x9000, .xy⟩
  | .loadByte            => ⟨0xF000, 0x6000, .xk⟩
  | .addByte             => ⟨0xF000, 0x7000, .xk⟩
  | .move                => ⟨0xF00F, 0x8000, .xy⟩
  | .orReg               => ⟨0xF00F, 0x8001, .xy⟩
  | .andReg              => ⟨0xF00F, 0x8002, .xy⟩
  | .xorReg              => ⟨0xF00F, 0x8003, .xy⟩
  | .addReg              => ⟨0xF00F, 0x8004, .xy⟩
  | .subReg              => ⟨0xF00F, 0x8005, .xy⟩
  | .shiftRight          => ⟨0xF00F, 0x8006, .xy⟩
  | .subtractReversed    => ⟨0xF00F, 0x8007, .xy⟩
  | .shiftLeft           => ⟨0xF00F, 0x800E, .xy⟩
  | .loadAddress         => ⟨0xF000, 0xA000, .a⟩
  | .jumpWithOffset      => ⟨0xF000, 0xB000, .a⟩
  | .randomAndMask       => ⟨0xF000, 0xC000, .xk⟩
  | .drawSprite          => ⟨0xF000, 0xD000, .xyn⟩
  | .skipIfKeyPressed    => ⟨0xF0FF, 0xE09E, .xb⟩
  | .skipIfKeyNotPressed => ⟨0xF0FF, 0xE0A1, .xb⟩
  | .loadDelayTimer      => ⟨0xF0FF, 0xF007, .xb⟩
  | .waitForKey          => ⟨0xF0FF, 0xF00A, .xb⟩
  | .setDelayTimer       => ⟨0xF0FF, 0xF015, .xb⟩
  | .setSoundTimer       => ⟨0xF0FF, 0xF018, .xb⟩
  | .addToAddress        => ⟨0xF0FF, 0xF01E, .xb⟩
  | .loadFontAddress     => ⟨0xF0FF, 0xF029, .xb⟩
  | .storeBcd            => ⟨0xF0FF, 0xF033, .xb⟩
  | .storeRegisterBlock  => ⟨0xF0FF, 0xF055, .xb⟩
  | .loadRegisterBlock   => ⟨0xF0FF, 0xF065, .xb⟩
  | .sys                 => ⟨0xF000, 0x0000, .a⟩

/-- Rows 1 to 34, the forms the source tabulates, in the table's order (R66). -/
def tabulated : List Opcode :=
  [.clearDisplay, .ret, .jump, .call, .skipEqualByte, .skipNotEqualByte, .skipEqualReg, .skipNotEqualReg,
   .loadByte, .addByte, .move, .orReg, .andReg, .xorReg, .addReg, .subReg, .shiftRight, .subtractReversed, .shiftLeft,
   .loadAddress, .jumpWithOffset, .randomAndMask, .drawSprite, .skipIfKeyPressed, .skipIfKeyNotPressed,
   .loadDelayTimer, .waitForKey, .setDelayTimer, .setSoundTimer, .addToAddress, .loadFontAddress, .storeBcd,
   .storeRegisterBlock, .loadRegisterBlock]

/-- Whether a row selects the word (R66). -/
def Opcode.selects (o : Opcode) (w : Word) : Bool := w &&& (opcodeRow o).mask == (opcodeRow o).bits

/-- The row that a word belongs to: the first of rows 1 to 34 that selects it, then row 35, which is "consulted only after
them" (R67). -/
def rowOf (w : Word) : Option Opcode := (tabulated ++ [Opcode.sys]).find? (·.selects w)

/-- The instruction of a row, its operands taken from the word (R63). -/
def Opcode.build (w : Word) : Opcode → Instr
  | .clearDisplay        => .clearDisplay
  | .ret                 => .ret
  | .jump                => .jump (fieldNNN w)
  | .call                => .call (fieldNNN w)
  | .skipEqualByte       => .skipEqualByte (fieldX w) (fieldKK w)
  | .skipNotEqualByte    => .skipNotEqualByte (fieldX w) (fieldKK w)
  | .skipEqualReg        => .skipEqualReg (fieldX w) (fieldY w)
  | .skipNotEqualReg     => .skipNotEqualReg (fieldX w) (fieldY w)
  | .loadByte            => .loadByte (fieldX w) (fieldKK w)
  | .addByte             => .addByte (fieldX w) (fieldKK w)
  | .move                => .move (fieldX w) (fieldY w)
  | .orReg               => .orReg (fieldX w) (fieldY w)
  | .andReg              => .andReg (fieldX w) (fieldY w)
  | .xorReg              => .xorReg (fieldX w) (fieldY w)
  | .addReg              => .addReg (fieldX w) (fieldY w)
  | .subReg              => .subReg (fieldX w) (fieldY w)
  | .shiftRight          => .shiftRight (fieldX w) (fieldY w)
  | .subtractReversed    => .subtractReversed (fieldX w) (fieldY w)
  | .shiftLeft           => .shiftLeft (fieldX w) (fieldY w)
  | .loadAddress         => .loadAddress (fieldNNN w)
  | .jumpWithOffset      => .jumpWithOffset (fieldNNN w)
  | .randomAndMask       => .randomAndMask (fieldX w) (fieldKK w)
  | .drawSprite          => .drawSprite (fieldX w) (fieldY w) (fieldN w)
  | .skipIfKeyPressed    => .skipIfKeyPressed (fieldX w)
  | .skipIfKeyNotPressed => .skipIfKeyNotPressed (fieldX w)
  | .loadDelayTimer      => .loadDelayTimer (fieldX w)
  | .waitForKey          => .waitForKey (fieldX w)
  | .setDelayTimer       => .setDelayTimer (fieldX w)
  | .setSoundTimer       => .setSoundTimer (fieldX w)
  | .addToAddress        => .addToAddress (fieldX w)
  | .loadFontAddress     => .loadFontAddress (fieldX w)
  | .storeBcd            => .storeBcd (fieldX w)
  | .storeRegisterBlock  => .storeRegisterBlock (fieldX w)
  | .loadRegisterBlock   => .loadRegisterBlock (fieldX w)
  | .sys                 => .sys (fieldNNN w)

/-! ## The decoder (R67) -/

/-- Why bytes are no instruction. -/
inductive Reject where
  /-- No row selects the word (R68, "InvalidOpcode"). A step executes such a word as a no-op (R91). -/
  | invalidOpcode (w : Word)
  /-- Fewer than two bytes were given (R61: every instruction is two bytes). A step never meets it (R84). -/
  | truncated (n : Nat)
  deriving DecidableEq, Repr

/-- The decoder, total on words and dependent on nothing else (R67). -/
def decodeWord (w : Word) : Except Reject Instr :=
  match rowOf w with
  | some o => .ok (o.build w)
  | none => .error (.invalidOpcode w)

/-- The decoder on bytes: the first two are the word, high byte first; the rest is returned (R61). -/
def decode : List Byte → Except Reject (Instr × List Byte)
  | hi :: lo :: rest => (decodeWord (joinBytes hi lo)).map (·, rest)
  | short => .error (.truncated short.length)

/-! ## The encoder (R73) -/

/-- Format `A`: `nnn` in bits 11 to 0. -/
def packNNN (nnn : Addr12) : Word := nnn.setWidth 16

/-- `x` in bits 11 to 8. -/
def packX (x : RegIx) : Word := x.setWidth 16 <<< 8

/-- Format `XK`: `x` in bits 11 to 8, `kk` in bits 7 to 0. -/
def packXK (x : RegIx) (kk : Byte) : Word := packX x ||| kk.setWidth 16

/-- Format `XY`: `x` in bits 11 to 8, `y` in bits 7 to 4. -/
def packXY (x y : RegIx) : Word := packX x ||| y.setWidth 16 <<< 4

/-- Format `XYN`: `XY` and `n` in bits 3 to 0. -/
def packXYN (x y : RegIx) (n : Count) : Word := packXY x y ||| n.setWidth 16

/-- The operand bits of an instruction's word (R63, R73). -/
def operandBits : Instr → Word
  | .clearDisplay | .ret => 0
  | .jump nnn | .call nnn | .loadAddress nnn | .jumpWithOffset nnn | .sys nnn => packNNN nnn
  | .skipEqualByte x kk | .skipNotEqualByte x kk | .loadByte x kk | .addByte x kk | .randomAndMask x kk => packXK x kk
  | .skipEqualReg x y | .skipNotEqualReg x y | .move x y | .orReg x y | .andReg x y | .xorReg x y | .addReg x y
  | .subReg x y | .shiftRight x y | .subtractReversed x y | .shiftLeft x y => packXY x y
  | .drawSprite x y n => packXYN x y n
  | .skipIfKeyPressed x | .skipIfKeyNotPressed x | .loadDelayTimer x | .waitForKey x | .setDelayTimer x
  | .setSoundTimer x | .addToAddress x | .loadFontAddress x | .storeBcd x | .storeRegisterBlock x
  | .loadRegisterBlock x => packX x

/-- The word of an instruction: its row's match with the operands in their fields (R73). -/
def encode (i : Instr) : Word := (opcodeRow i.opcode).bits ||| operandBits i

/-- The bytes of an instruction in ascending addresses, high byte first (R48, R73). -/
def encodeBytes (i : Instr) : List Byte := [hiByte (encode i), loByte (encode i)]

/-! ## The opcode table's numbering -/

/-- The 16-bit word of an opcode-table row's `nbits` bits: bit 0 is the word's least significant bit, as in the table. -/
def tableWord (nbits w : Nat) : Word := BitVec.ofNat 16 (w % 2 ^ nbits)

/-- The instruction the decoder reads from the two bytes the hardware stores for a table word. -/
def decodeTableWord (nbits w : Nat) : Option Instr :=
  match decode [hiByte (tableWord nbits w), loByte (tableWord nbits w)] with
  | .ok (i, _) => some i
  | .error _ => none

end Sys2Proof
end

