-- ==== Sys2Proof/Config.lean ====
section
/-! DEFINITION. The parameters of the hardware (00_scope.md R6) as one record, and the free value of the model.
The record's values stand in Sys2Proof/Machine/Params.lean. -/

namespace Sys2Proof

/-- `SHIFT_SOURCE` (R6, decision D10): which register the shifts read. -/
inductive ShiftSource where
  | vx
  | vy
  deriving DecidableEq, Repr

/-- `DRAW_VERTICAL` (R6, decision D20): what happens to sprite rows past row 31. -/
inductive VerticalRule where
  | wrap
  | clip
  deriving DecidableEq, Repr

/-- One field for each value of R6 that is not already a width or a length of a type of State. -/
structure Config where
  /-- `MEM_SIZE`, bytes of memory (source). -/
  memSize : Nat
  /-- `LOAD_ADDR`, program load address and reset `PC` (source; reset `PC` by D25). -/
  loadAddr : Word
  /-- `FLAG_REG`, index of the flag register (source). -/
  flagReg : RegIx
  /-- `SP_MAX`, the largest value `SP` may hold (D7). -/
  spMax : Nat
  /-- `SCREEN_W` (source). -/
  screenW : Nat
  /-- `SCREEN_H` (source). -/
  screenH : Nat
  /-- `INSN_BYTES`, instruction length (source). -/
  insnBytes : Nat
  /-- `HALT_LIMIT`, the largest `PC` at which a fetch happens (source). -/
  haltLimit : Nat
  /-- `GLYPH_BYTES`, bytes of one font glyph (source). -/
  glyphBytes : Nat
  /-- `FONT_BASE`, address of glyph 0 (source). -/
  fontBase : Nat
  /-- `FONT`, the glyph bytes `Reset` writes from `FONT_BASE` up (D22, general knowledge). -/
  font : List Byte
  /-- `SHIFT_SOURCE` (D10). -/
  shiftSource : ShiftSource
  /-- `SUB_FLAG_ON_EQUAL`, the flag of the two subtractions on equal operands (D8). -/
  subFlagOnEqual : Byte
  /-- `DRAW_VERTICAL` (D20). -/
  drawVertical : VerticalRule
  /-- `PIXEL_MSB_LEFT`: bit 7 of a pixel byte is its leftmost pixel (D19). -/
  pixelMsbLeft : Bool
  /-- `HALT_BEFORE_KEYWAIT`: the halt check stands before the key-wait check (D14). -/
  haltBeforeKeywait : Bool
  /-- `RESET_ZERO`: what `Reset` writes to `V`, `DT`, `ST`, `PIX` and the memory outside the font (D25). -/
  resetByte : Byte
  /-- `RESET_ZERO`: what `Reset` writes to `I` and the stack entries (D25). -/
  resetWord : Word
  deriving DecidableEq, Repr

/-- The free value: the `n`-th random byte the host did not fix (R7 input `rnd`, R32 (d), R125, decision D27:
"a free draw under no law"). It has no body; a claim holds whatever it is. Assumption log entry 2. -/
opaque Config.freeRandom : Nat → Byte

end Sys2Proof
end

