-- ==== Sys2Proof/Machine/Params.lean ====
section
/-! DEFINITION. The values of the parameters (00_scope.md R6) and the font (20_memory.md R47). -/

namespace Sys2Proof.Machine

/-- The glyphs 0 to 7 of R47 (general knowledge, D22; assumption log entry 4). -/
def fontLow : List Byte :=
  [0xF0, 0x90, 0x90, 0x90, 0xF0] ++ [0x20, 0x60, 0x20, 0x20, 0x70] ++
  [0xF0, 0x10, 0xF0, 0x80, 0xF0] ++ [0xF0, 0x10, 0xF0, 0x10, 0xF0] ++
  [0x90, 0x90, 0xF0, 0x10, 0x10] ++ [0xF0, 0x80, 0xF0, 0x10, 0xF0] ++
  [0xF0, 0x80, 0xF0, 0x90, 0xF0] ++ [0xF0, 0x10, 0x20, 0x40, 0x40]

/-- The glyphs 8 to F of R47. -/
def fontHigh : List Byte :=
  [0xF0, 0x90, 0xF0, 0x90, 0xF0] ++ [0xF0, 0x90, 0xF0, 0x10, 0xF0] ++
  [0xF0, 0x90, 0xF0, 0x90, 0x90] ++ [0xE0, 0x90, 0xE0, 0x90, 0xE0] ++
  [0xF0, 0x80, 0x80, 0x80, 0xF0] ++ [0xE0, 0x90, 0x90, 0x90, 0xE0] ++
  [0xF0, 0x80, 0xF0, 0x80, 0xF0] ++ [0xF0, 0x80, 0xF0, 0x80, 0x80]

/-- The table of R6. The (decision) values are this spec's; each has a row of the assumption log. -/
def params : Config where
  memSize := 4096
  loadAddr := 0x200
  flagReg := 15
  spMax := 15
  screenW := 64
  screenH := 32
  insnBytes := 2
  haltLimit := 4094
  glyphBytes := 5
  fontBase := 0
  font := fontLow ++ fontHigh
  shiftSource := .vx
  subFlagOnEqual := 0
  drawVertical := .wrap
  pixelMsbLeft := true
  haltBeforeKeywait := true
  resetByte := 0
  resetWord := 0

/-- What a byte of memory that nothing has written reads as: the contents `Reset` gives it (R34): `FONT` from `FONT_BASE` up (R47),
the reset byte everywhere else. -/
def baseByte (a : Nat) : Byte :=
  if a < params.fontBase then params.resetByte
  else (params.font[a - params.fontBase]?).getD params.resetByte

end Sys2Proof.Machine
end

