-- ==== Sys2Proof/Machine/State.lean ====
section
/-! DEFINITION. The state of the machine (10_state.md R13 to R26), memory in canonical form, the faults (60_exceptions.md R168) and the
state after reset (R34, R186). -/

namespace Sys2Proof.Machine

/-! ## Memory -/

/-- `MEM` (R26, R41): the bytes that differ from their reset contents, addresses strictly rising. -/
abbrev Memory := List Host.Cell

/-- The canonical form: addresses strictly rise, every address exists (R41), and no entry equals what an unlisted address
reads as. -/
abbrev Memory.wf (m : Memory) : Prop :=
  m.Pairwise (fun c d => c.1 < d.1) ∧ ∀ c ∈ m, c.1 < params.memSize ∧ c.2 ≠ baseByte c.1

/-! ## The pixel buffer -/

/-- `PIX` (R24): "32 rows of 8 bytes", row-major; `PIX[row * 8 + column]` is byte `column` of row `row`. -/
abbrev Pix := Vector (Vector Byte 8) 32

/-- Every pixel byte at one value. -/
def Pix.fill (b : Byte) : Pix := Vector.replicate 32 (Vector.replicate 8 b)

/-! ## Outcomes that are not a next state -/

/-- The faults of R168. A fault ends the event, and the state after it is the state before it (R166); it is named and not
remembered (R36, R167). All are safe: the machine stops where the hardware could only repeat the same fault. -/
inductive Fault where
  /-- Code 1. Raised by `draw-sprite`, `store-BCD`, `store-register-block`, `load-register-block` when they would touch an address
  of 4096 or more; carries the lowest such address (R162). Safe. -/
  | memOutOfRange (addr : Nat)
  /-- Code 2. Raised by `call` with `SP = 15`; carries the `PC` of the call (R163). Safe. -/
  | stackOverflow (pc : Word)
  /-- Code 3. Raised by `return` with `SP = 0`; carries the `PC` of the return (R164). Safe. -/
  | stackUnderflow (pc : Word)
  /-- Code 4. Raised by the host event `Load` when the bytes do not fit, never by a step (R165). Safe. -/
  | loadTooLarge (start length : Nat)
  deriving DecidableEq, Repr

/-- Refusals. No instruction of this model answers with one. -/
inductive Refusal where
  /-- An instruction rejected by name in its arm of exec. Safe. -/
  | notModelled (mnemonic : String)
  deriving DecidableEq, Repr

/-! ## State -/

/-- The state of the Core (R13 to R26), and the two fields of the model's own that carry the input `rnd`. -/
structure State where
  /-- `V[0]` to `V[15]` (R13); `V[15]` is the flag register `VF` (R14). -/
  v : Vector Byte 16
  /-- `I`, the address register (R15). -/
  i : Word
  /-- `PC`, the program counter (R16). -/
  pc : Word
  /-- `SP`, the number of return addresses held (R18). -/
  sp : Byte
  /-- `STACK[0]` to `STACK[15]` (R19). -/
  stack : Vector Word 16
  /-- `DT`, the delay timer (R20). -/
  dt : Byte
  /-- `ST`, the sound timer (R21). -/
  st : Byte
  /-- `KW.blocked` (R22). -/
  kwBlocked : Bool
  /-- `KW.target` (R22). -/
  kwTarget : RegIx
  /-- `KEY`, the key latch: no key, or the digit held (R23). -/
  key : Option Digit
  /-- `PIX[0]` to `PIX[255]` (R24). -/
  pix : Pix
  /-- `MEM[0]` to `MEM[4095]` (R26). -/
  mem : Memory
  /-- The model's own (not the spec's): the values of the input `rnd` (R32 (d)) that the host has fixed for the coming executions of
  `random-and-mask`, the next one first. Assumption log entry 2. -/
  rndInput : List Byte
  /-- The model's own (not the spec's): how many free random bytes have been drawn. Assumption log entry 2. -/
  rndDraws : Nat
  deriving DecidableEq, Repr

/-- The machine right after `Reset` (R34, R186). -/
def State.reset : State where
  v := Vector.replicate 16 params.resetByte
  i := params.resetWord
  pc := params.loadAddr
  sp := 0
  stack := Vector.replicate 16 params.resetWord
  dt := params.resetByte
  st := params.resetByte
  kwBlocked := false
  kwTarget := 0
  key := none
  pix := Pix.fill params.resetByte
  mem := []
  rndInput := []
  rndDraws := 0

end Sys2Proof.Machine
end

