-- ==== Sys2Proof/Machine/Ops.lean ====
section
/-! DEFINITION. The named operations over registers, memory, stack, pixels and the random input, and raising a fault. -/

namespace Sys2Proof.Machine

/-- What an event answers. -/
abbrev Result := Host.Outcome State Fault Refusal

/-! ## Faults (60_exceptions.md R161 to R175) -/

/-- Raising a fault, the machine's whole exception mechanism: the event ends at once and the fault is returned to the host as its
outcome (R9, R166). R173: no state is saved, no mode changes, no vector is fetched, `PC` does not move. R174: there is no
return from a fault. -/
def raise (f : Fault) : Result := .fault f

/-- The state after an event: a fault leaves every item of state as it was before the event (R166). -/
def stateAfter (s : State) : Result → State
  | .next t => t
  | .fault _ => s
  | .refused _ => s

/-- `code` of R168. -/
def Fault.code : Fault → Nat
  | .memOutOfRange _ => 1
  | .stackOverflow _ => 2
  | .stackUnderflow _ => 3
  | .loadTooLarge _ _ => 4

/-! ## Registers (10_state.md R13) -/

/-- `V[x]`. -/
def State.reg (s : State) (x : RegIx) : Byte := s.v[x.toNat]'x.isLt

/-- `V[x] <- b`. -/
def State.setReg (s : State) (x : RegIx) (b : Byte) : State := { s with v := s.v.set x.toNat b x.isLt }

/-- The register of a natural number 0 to 15. -/
def regIx (k : Nat) : RegIx := BitVec.ofNat 4 k

/-- `V[0]` to `V[x]` in ascending order. -/
def State.regBlock (s : State) (x : RegIx) : List Byte := (List.range (x.toNat + 1)).map fun k => s.reg (regIx k)

/-- Writes the bytes to `V[k]`, `V[k + 1]`, … in order. -/
def State.setRegs (s : State) : Nat → List Byte → State
  | _, [] => s
  | k, b :: bs => (s.setReg (regIx k) b).setRegs (k + 1) bs

/-! ## The program counter (R16, 40_step_and_dispatch.md R88) -/

/-- `PC <- target`. -/
def State.jumpTo (s : State) (target : Word) : State := { s with pc := target }

/-- `next`: the address after this instruction, `PC + 2` (R9). -/
def State.nextPc (s : State) : Word := s.pc + BitVec.ofNat 16 params.insnBytes

/-- `skip`: the address after the instruction skipped, `PC + 4` (R9). -/
def State.skipPc (s : State) : Word := s.pc + BitVec.ofNat 16 (2 * params.insnBytes)

/-- `PC <- PC + 2`. -/
def State.advance (s : State) : State := s.jumpTo s.nextPc

/-- `if c then PC <- PC + 4 else PC <- PC + 2` (R88). -/
def State.skipIf (s : State) (c : Bool) : State := if c then s.jumpTo s.skipPc else s.advance

/-! ## Memory (20_memory.md R43, R44) -/

/-- The byte a memory holds at an address. -/
def Memory.read : Memory → Nat → Byte
  | [], a => baseByte a
  | (k, b) :: m, a => if k = a then b else Memory.read m a

/-- Lists the address with the byte, in order. -/
def Memory.put : Memory → Nat → Byte → Memory
  | [], a, b => [(a, b)]
  | (k, c) :: m, a, b =>
    if a < k then (a, b) :: (k, c) :: m
    else if a = k then (a, b) :: m
    else (k, c) :: Memory.put m a b

/-- Takes the address off the list. -/
def Memory.drop : Memory → Nat → Memory
  | [], _ => []
  | (k, c) :: m, a => if k = a then m else (k, c) :: Memory.drop m a

/-- One byte written, the canonical form kept: the byte an unlisted address reads as is not listed. -/
def Memory.write (m : Memory) (a : Nat) (b : Byte) : Memory :=
  if b = baseByte a then m.drop a else m.put a b

/-- `MEM[a]`, for an address that `rangeFault` has let through. -/
def State.byteAt (s : State) (a : Nat) : Byte := s.mem.read a

/-- `MEM[a] <- b`, for an address that `rangeFault` has let through (R44: one byte and nothing else). -/
def State.setByte (s : State) (a : Nat) (b : Byte) : State := { s with mem := s.mem.write a b }

/-- `MEM[base]` to `MEM[base + n - 1]` in ascending order. -/
def State.bytesAt (s : State) (base n : Nat) : List Byte := (List.range n).map fun k => s.byteAt (base + k)

/-- Writes the bytes to `MEM[base]`, `MEM[base + 1]`, … in order (R50). -/
def State.setBytes (s : State) : Nat → List Byte → State
  | _, [] => s
  | base, b :: bs => (s.setByte base b).setBytes (base + 1) bs

/-- `for k in 0 .. n-1: if base + k >= 4096 then raise MemOutOfRange(base + k)`: the fault of the lowest out-of-range address, made
before any write (R162, R166). The addresses are natural numbers, not wrapped and not masked (R51). -/
def rangeFault (base n : Nat) : Option Fault :=
  ((List.range n).find? fun k => params.memSize ≤ base + k).map fun k => .memOutOfRange (base + k)

/-- An access to `MEM[base]` to `MEM[base + n - 1]`: the fault check, then the effect. -/
def withRange (base n : Nat) (effect : State) : Result :=
  match rangeFault base n with
  | some f => raise f
  | none => .next effect

/-! ## The stack (10_state.md R18, R19) -/

/-- `STACK[j]`, for an entry that exists. -/
def State.slot (s : State) (j : Nat) : Option Word := s.stack[j]?

/-- `STACK[SP] <- ret ; SP <- SP + 1` (R99). -/
def State.push (s : State) (ret : Word) : State :=
  { s with stack := s.stack.setIfInBounds s.sp.toNat ret, sp := s.sp + 1 }

/-- `STACK[SP - 1]`, the entry `return` pops (R97): none when the stack is empty, and none when `SP` points past the sixteen entries,
which no run reaches (R18; assumption log entry 8). -/
def State.top (s : State) : Option Word := if s.sp = 0 then none else s.slot (s.sp.toNat - 1)

/-- `SP <- SP - 1`; the popped entry stays in `STACK` (R97). -/
def State.pop (s : State) : State := { s with sp := s.sp - 1 }

/-! ## The pixel buffer (10_state.md R24, R25) -/

/-- `PIX[row * 8 + col]`, the row taken modulo 32 and the byte column modulo 8 (43_display.md R131: every coordinate is reduced into the
buffer, never rejected). -/
def Pix.byte (p : Pix) (row col : Nat) : Byte :=
  (p[row % 32]'(Nat.mod_lt _ (by decide)))[col % 8]'(Nat.mod_lt _ (by decide))

/-- `PIX[row * 8 + col] <- b`. -/
def Pix.setByte (p : Pix) (row col : Nat) (b : Byte) : Pix :=
  p.set (row % 32) ((p[row % 32]'(Nat.mod_lt _ (by decide))).set (col % 8) b (Nat.mod_lt _ (by decide)))
    (Nat.mod_lt _ (by decide))

/-- `PIX[a]` by its flat index 0 to 255 (R24: row-major, 8 bytes a row). -/
def State.pixByte (s : State) (a : Nat) : Byte := s.pix.byte (a / 8) (a % 8)

/-- The bit of a pixel byte that is its `j`-th pixel from the left (R25, `PIXEL_MSB_LEFT`). -/
def pixelBit (b : Byte) (j : Nat) : Bool := b.getLsbD (if params.pixelMsbLeft then 7 - j else j)

/-- The pixel at column `px` and row `py` (R25). -/
def Pix.pixel (p : Pix) (px py : Nat) : Bool := pixelBit (p.byte py (px / 8)) (px % 8)

/-! ## The random input (00_scope.md R7, 42_arithmetic_logic.md R125) -/

/-- The random byte of this execution: the one the host has fixed, or else a free one. -/
def State.random (s : State) : Byte :=
  match s.rndInput with
  | r :: _ => r
  | [] => Config.freeRandom s.rndDraws

/-- The random byte has been used. -/
def State.useRandom (s : State) : State :=
  match s.rndInput with
  | _ :: rs => { s with rndInput := rs }
  | [] => { s with rndDraws := s.rndDraws + 1 }

end Sys2Proof.Machine
end

