-- ==== Sys2Proof/Machine/Operands.lean ====
section
/-! DEFINITION. The operand forms: immediates (30_encoding.md R64), the shifted register, addresses through `I` (20_memory.md R51), the held key,
the glyph address and the decimal digits. Every function reads the state the instruction started from (42_arithmetic_logic.md R111). -/

namespace Sys2Proof.Machine

/-- `zext_16(nnn)` (R64). -/
def zextAddr (nnn : Addr12) : Word := nnn.setWidth 16

/-- `zext_16(a)` of a byte. -/
def zextByte (a : Byte) : Word := a.setWidth 16

/-- `zext_8(k)` of a key digit (R83). -/
def zextDigit (k : Digit) : Byte := k.setWidth 8

/-- The register a shift reads: `V[x]` (R120, R122, `SHIFT_SOURCE`). -/
def State.shiftOperand (s : State) (x y : RegIx) : Byte :=
  match params.shiftSource with
  | .vx => s.reg x
  | .vy => s.reg y

/-- The base of every data access, `I` as a natural number (R51). -/
def State.base (s : State) : Nat := s.i.toNat

/-- The number of bytes a register block `V[0]` to `V[x]` takes (R155, R156). -/
def blockSize (x : RegIx) : Nat := x.toNat + 1

/-- The target of `jump-with-offset`, the plain 16-bit sum (R104). -/
def State.offsetTarget (s : State) (nnn : Addr12) : Word := zextAddr nnn + zextByte (s.reg 0)

/-- Whether the digit held in a register is the key held down: all 8 bits are compared (R141). -/
def State.keyPressed (s : State) (a : Byte) : Bool :=
  match s.key with
  | some k => zextDigit k == a
  | none => false

/-- The address of the glyph of a digit, `FONT_BASE + 5 * a`, for `a` at most 15 (R153). -/
def glyphAddress (a : Byte) : Option Word :=
  if a.toNat ≤ 15 then some (BitVec.ofNat 16 (params.fontBase + params.glyphBytes * a.toNat)) else none

/-- Hundreds, tens and ones, the most significant digit first (R154). -/
def bcdDigits (a : Byte) : List Byte :=
  [BitVec.ofNat 8 (a.toNat / 100), BitVec.ofNat 8 (a.toNat / 10 % 10), BitVec.ofNat 8 (a.toNat % 10)]

/-- `V[x] mod 64`, the column a sprite starts at (R133). -/
def State.spriteX (s : State) (x : RegIx) : Nat := (s.reg x).toNat % params.screenW

/-- `V[y] mod 32`, the row a sprite starts at (R133). -/
def State.spriteY (s : State) (y : RegIx) : Nat := (s.reg y).toNat % params.screenH

/-- The sprite: `MEM[I]` to `MEM[I + n - 1]` (R133). -/
def State.sprite (s : State) (n : Count) : List Byte := s.bytesAt s.base n.toNat

end Sys2Proof.Machine
end

