-- ==== Sys2Proof/Machine/Flags.lean ====
section
/-! DEFINITION. The flag computations (10_state.md R27) and the order of the flag write and the result write (42_arithmetic_logic.md R111). A flag
value is always 0 or 1 (R14). -/

namespace Sys2Proof.Machine

/-- A flag value: 1 or 0 (R14). -/
def flagOf (c : Bool) : Byte := if c then 1 else 0

/-- The flag of `add`: 1 if the 9-bit sum exceeds 255 (R118). -/
def carryFlag (a b : Byte) : Byte := flagOf (255 < a.toNat + b.toNat)

/-- The flag of the subtractions: 1 if the minuend is greater, `SUB_FLAG_ON_EQUAL` if the operands are equal (R119, R121). -/
def greaterFlag (a b : Byte) : Byte :=
  if b.toNat < a.toNat then 1 else if a = b then params.subFlagOnEqual else 0

/-- The flag of `shift-right`: the bit shifted out (R120). -/
def lowBitFlag (a : Byte) : Byte := flagOf (a.getLsbD 0)

/-- The flag of `shift-left`: the bit shifted out (R122). -/
def highBitFlag (a : Byte) : Byte := flagOf (a.getLsbD 7)

/-- `VF <- flag`. -/
def State.setFlag (s : State) (flag : Byte) : State := s.setReg params.flagReg flag

/-- The two writes of a flag-writing instruction of R111: the flag first, the result second, so that with `x = 15` the result
survives. -/
def State.setFlagThenReg (s : State) (flag : Byte) (x : RegIx) (result : Byte) : State :=
  (s.setFlag flag).setReg x result

end Sys2Proof.Machine
end

