-- ==== Sys2Proof/Machine/Address.lean ====
section
/-! DEFINITION. The address register and memory (45_address_and_memory.md). None of these instructions writes `VF` as a flag, and none changes `I`
through a memory access (R51). -/

namespace Sys2Proof.Machine

/-- `load-address nnn` (R151). -/
def execLoadAddress (nnn : Addr12) (s : State) : Result := .next ({ s with i := zextAddr nnn } : State).advance

/-- `add-to-address Vx` (R152): 16-bit wrapping sum, no overflow flag. -/
def execAddToAddress (x : RegIx) (s : State) : Result := .next ({ s with i := s.i + zextByte (s.reg x) } : State).advance

/-- `load-font-address Vx` (R153): `I` stays when the register holds more than 15. -/
def execLoadFontAddress (x : RegIx) (s : State) : Result :=
  .next ({ s with i := (glyphAddress (s.reg x)).getD s.i } : State).advance

/-- `store-BCD Vx` (R154). -/
def execStoreBcd (x : RegIx) (s : State) : Result :=
  withRange s.base 3 (s.setBytes s.base (bcdDigits (s.reg x))).advance

/-- `store-register-block Vx` (R155). -/
def execStoreRegisterBlock (x : RegIx) (s : State) : Result :=
  withRange s.base (blockSize x) (s.setBytes s.base (s.regBlock x)).advance

/-- `load-register-block Vx` (R156). -/
def execLoadRegisterBlock (x : RegIx) (s : State) : Result :=
  withRange s.base (blockSize x) (s.setRegs 0 (s.bytesAt s.base (blockSize x))).advance

end Sys2Proof.Machine
end

