-- ==== Sys2Proof/Machine/Arith.lean ====
section
/-! DEFINITION. Register load, arithmetic, logic, shifts and the random byte (42_arithmetic_logic.md). None of them can fault. -/

namespace Sys2Proof.Machine

/-- `load-byte Vx, kk` (R112). -/
def execLoadByte (x : RegIx) (kk : Byte) (s : State) : Result := .next (s.setReg x kk).advance

/-- `add-byte Vx, kk` (R113): 8-bit wraparound, no flag update. -/
def execAddByte (x : RegIx) (kk : Byte) (s : State) : Result := .next (s.setReg x (s.reg x + kk)).advance

/-- `move Vx, Vy` (R114). -/
def execMove (x y : RegIx) (s : State) : Result := .next (s.setReg x (s.reg y)).advance

/-- `or Vx, Vy` (R115). -/
def execOr (x y : RegIx) (s : State) : Result := .next (s.setReg x (s.reg x ||| s.reg y)).advance

/-- `and Vx, Vy` (R116). -/
def execAnd (x y : RegIx) (s : State) : Result := .next (s.setReg x (s.reg x &&& s.reg y)).advance

/-- `xor Vx, Vy` (R117). -/
def execXor (x y : RegIx) (s : State) : Result := .next (s.setReg x (s.reg x ^^^ s.reg y)).advance

/-- `add Vx, Vy` (R118). -/
def execAdd (x y : RegIx) (s : State) : Result :=
  .next (s.setFlagThenReg (carryFlag (s.reg x) (s.reg y)) x (s.reg x + s.reg y)).advance

/-- `sub Vx, Vy` (R119). -/
def execSub (x y : RegIx) (s : State) : Result :=
  .next (s.setFlagThenReg (greaterFlag (s.reg x) (s.reg y)) x (s.reg x - s.reg y)).advance

/-- `shift-right Vx` (R120). -/
def execShiftRight (x y : RegIx) (s : State) : Result :=
  .next (s.setFlagThenReg (lowBitFlag (s.shiftOperand x y)) x (s.shiftOperand x y >>> 1)).advance

/-- `subtract-reversed Vx, Vy` (R121): the destination is `V[x]`, the minuend `V[y]`. -/
def execSubtractReversed (x y : RegIx) (s : State) : Result :=
  .next (s.setFlagThenReg (greaterFlag (s.reg y) (s.reg x)) x (s.reg y - s.reg x)).advance

/-- `shift-left Vx` (R122). -/
def execShiftLeft (x y : RegIx) (s : State) : Result :=
  .next (s.setFlagThenReg (highBitFlag (s.shiftOperand x y)) x (s.shiftOperand x y <<< 1)).advance

/-- `random-and-mask Vx, kk` (R125). -/
def execRandomAndMask (x : RegIx) (kk : Byte) (s : State) : Result :=
  .next (s.useRandom.setReg x (s.random &&& kk)).advance

end Sys2Proof.Machine
end

