-- ==== Sys2Proof/Machine/Control.lean ====
section
/-! DEFINITION. Control flow (41_control_flow.md): `return`, `jump`, `call`, the four register and byte skips, `jump-with-offset`. -/

namespace Sys2Proof.Machine

/-- `return` (R97). -/
def execRet (s : State) : Result :=
  match s.top with
  | none => raise (.stackUnderflow s.pc)
  | some ret => .next (s.pop.jumpTo ret)

/-- `jump nnn` (R98). -/
def execJump (nnn : Addr12) (s : State) : Result := .next (s.jumpTo (zextAddr nnn))

/-- `call nnn` (R99). -/
def execCall (nnn : Addr12) (s : State) : Result :=
  if params.spMax ≤ s.sp.toNat then raise (.stackOverflow s.pc)
  else .next ((s.push s.nextPc).jumpTo (zextAddr nnn))

/-- `skip-equal-byte Vx, kk` (R100). -/
def execSkipEqualByte (x : RegIx) (kk : Byte) (s : State) : Result := .next (s.skipIf (s.reg x == kk))

/-- `skip-not-equal-byte Vx, kk` (R101). -/
def execSkipNotEqualByte (x : RegIx) (kk : Byte) (s : State) : Result := .next (s.skipIf (s.reg x != kk))

/-- `skip-equal-reg Vx, Vy` (R102). -/
def execSkipEqualReg (x y : RegIx) (s : State) : Result := .next (s.skipIf (s.reg x == s.reg y))

/-- `skip-not-equal-reg Vx, Vy` (R103). -/
def execSkipNotEqualReg (x y : RegIx) (s : State) : Result := .next (s.skipIf (s.reg x != s.reg y))

/-- `jump-with-offset nnn` (R104). -/
def execJumpWithOffset (nnn : Addr12) (s : State) : Result := .next (s.jumpTo (s.offsetTarget nnn))

end Sys2Proof.Machine
end

