-- ==== Sys2Proof/Machine/Display.lean ====
section
/-! DEFINITION. The display (43_display.md): `clear-display` and `draw-sprite`. -/

namespace Sys2Proof.Machine

/-- `clear-display` (R132): zero every bit of the pixel buffer. -/
def execClearDisplay (s : State) : Result := .next ({ s with pix := Pix.fill 0 } : State).advance

/-- A shift of a sprite byte towards the right edge of the screen by `k` pixels (R133; the other way round when bit 0 is the leftmost
pixel, D19). -/
def shiftTowardsRight (b : Byte) (k : Nat) : Byte := if params.pixelMsbLeft then b >>> k else b <<< k

/-- A shift of a sprite byte towards the left edge of the screen by `k` pixels (R133, D19). -/
def shiftTowardsLeft (b : Byte) (k : Nat) : Byte := if params.pixelMsbLeft then b <<< k else b >>> k

/-- One `PIX` byte XORed, and whether a lit pixel was turned off (R133). -/
def Pix.xorByte (p : Pix) (row col : Nat) (b : Byte) : Pix × Bool :=
  (p.setByte row col (p.byte row col ^^^ b), p.byte row col &&& b != 0)

/-- One sprite row at column `x0` of screen row `row` (R133): the sprite byte is split across byte column `x0 div 8` and the next one,
column 7 wrapping to column 0 of the same row. -/
def Pix.xorRow (p : Pix) (x0 row : Nat) (b : Byte) : Pix × Bool :=
  let left := p.xorByte row (x0 / 8) (shiftTowardsRight b (x0 % 8))
  let right := left.1.xorByte row ((x0 / 8 + 1) % 8) (shiftTowardsLeft b (8 - x0 % 8))
  (right.1, left.2 || right.2)

/-- Whether sprite row `r` of a sprite at `y0` is on the screen: always when rows wrap (R133, `DRAW_VERTICAL`). -/
def rowShown (y0 r : Nat) : Bool :=
  match params.drawVertical with
  | .wrap => true
  | .clip => y0 + r < params.screenH

/-- The sprite rows from row `r` on, with the collision found so far (R133). -/
def Pix.xorRows (x0 y0 : Nat) : Nat → List Byte → Pix × Bool → Pix × Bool
  | _, [], acc => acc
  | r, b :: bs, (p, hit) =>
    if rowShown y0 r then
      let q := p.xorRow x0 ((y0 + r) % params.screenH) b
      Pix.xorRows x0 y0 (r + 1) bs (q.1, hit || q.2)
    else Pix.xorRows x0 y0 (r + 1) bs (p, hit)

/-- The pixel buffer after a sprite, and whether any lit pixel was turned off. -/
def State.drawn (s : State) (x y : RegIx) (n : Count) : Pix × Bool :=
  Pix.xorRows (s.spriteX x) (s.spriteY y) 0 (s.sprite n) (s.pix, false)

/-- `draw-sprite Vx, Vy, n` (R133). -/
def execDrawSprite (x y : RegIx) (n : Count) (s : State) : Result :=
  withRange s.base n.toNat
    (({ s with pix := (s.drawn x y n).1 } : State).setFlag (flagOf (s.drawn x y n).2)).advance

end Sys2Proof.Machine
end

