-- ==== Sys2Proof/Machine/Keys.lean ====
section
/-! DEFINITION. Keys and timers (44_timers_and_keys.md): the six instructions, the key-resolving step, and the host events `Tick` and `KeyUpdate`. -/

namespace Sys2Proof.Machine

/-- `skip-if-key-pressed Vx` (R141). -/
def execSkipIfKeyPressed (x : RegIx) (s : State) : Result := .next (s.skipIf (s.keyPressed (s.reg x)))

/-- `skip-if-key-not-pressed Vx` (R142). -/
def execSkipIfKeyNotPressed (x : RegIx) (s : State) : Result := .next (s.skipIf (!s.keyPressed (s.reg x)))

/-- `load-delay-timer Vx` (R143). -/
def execLoadDelayTimer (x : RegIx) (s : State) : Result := .next (s.setReg x s.dt).advance

/-- `wait-for-key Vx` (R144): the key is taken by a later step. -/
def execWaitForKey (x : RegIx) (s : State) : Result :=
  .next ({ s with kwBlocked := true, kwTarget := x } : State).advance

/-- `set-delay-timer Vx` (R145). -/
def execSetDelayTimer (x : RegIx) (s : State) : Result := .next ({ s with dt := s.reg x } : State).advance

/-- `set-sound-timer Vx` (R146). -/
def execSetSoundTimer (x : RegIx) (s : State) : Result := .next ({ s with st := s.reg x } : State).advance

/-- The key-resolving step (R83): the key goes to `V[KW.target]` and the block is lifted; `PC` and `KEY` stay. -/
def resolveKey (k : Digit) (s : State) : State :=
  { s.setReg s.kwTarget (zextDigit k) with kwBlocked := false }

/-- A timer under `Tick`: one less, and never below 0 (R149). -/
def countDown (t : Byte) : Byte := if 0 < t.toNat then t - 1 else t

/-- The host event `Tick` (R149). -/
def tick (s : State) : State := { s with dt := countDown s.dt, st := countDown s.st }

/-- The host event `KeyUpdate(k)` (R150). -/
def keyUpdate (k : Option Digit) (s : State) : State := { s with key := k }

end Sys2Proof.Machine
end

