-- ==== Sys2Proof/Machine/System.lean ====
section
/-! DEFINITION. `sys nnn` and the invalid opcode (40_step_and_dispatch.md R91, R92), and the host events `Reset` and `Load`. -/

namespace Sys2Proof.Machine

/-- An invalid opcode (R91): a no-op with ordinary `PC + 2` advance, not a fault (R169). -/
def execInvalid (s : State) : Result := .next s.advance

/-- `sys nnn` (R92): executed as an invalid opcode; the operand is ignored. -/
def execSys (_nnn : Addr12) (s : State) : Result := execInvalid s

/-- The host event `Reset` (R186). The random input is the host's and no state of the Core (R30), so it stays: a reset does not bring
earlier random bytes back. -/
def resetCore (s : State) : State := { State.reset with rndInput := s.rndInput, rndDraws := s.rndDraws }

/-- The host event `Load(bytes, start)` (R46): bounds first, then the copy; `MEM` only. -/
def load (bytes : List Byte) (start : Nat) (s : State) : Result :=
  if params.memSize < start + bytes.length then raise (.loadTooLarge start bytes.length)
  else .next (s.setBytes start bytes)

end Sys2Proof.Machine
end

