-- ==== Sys2Proof/Machine/Cycle.lean ====
section
/-! DEFINITION. The `Step` event (40_step_and_dispatch.md R81): the halt check, the key-wait check, fetch, decode, execute, and what is reported. -/

namespace Sys2Proof.Machine

/-- What a `Step` does, decided before any effect (R81, R172). -/
inductive Branch where
  /-- `PC > 4094`: nothing (R82). -/
  | halted
  /-- Blocked with no key: nothing (R83). -/
  | blocked
  /-- Blocked with a key: the key-resolving step (R83). -/
  | resolve (k : Digit)
  /-- An instruction of the table. -/
  | run (w : Word) (i : Instr)
  /-- A word that is none (R91). -/
  | invalid (w : Word)
  deriving DecidableEq, Repr

/-- What a `Step` reports to the host (R89). No state records it. -/
inductive Report where
  | executed
  | executedInvalid (w : Word)
  | halted
  | blocked
  | keyResolved
  | fault (f : Fault)
  | refused (r : Refusal)
  deriving DecidableEq, Repr

/-- The output `halted`, `PC > 4094` (R31, R82). -/
def State.halted (s : State) : Bool := params.haltLimit < s.pc.toNat

/-- `w := MEM[PC] : MEM[PC + 1]` (R84). Both addresses exist because the Core is not halted. -/
def State.fetched (s : State) : Word := joinBytes (s.byteAt s.pc.toNat) (s.byteAt (s.pc.toNat + 1))

/-- The halt check (R82). -/
def haltCheck (s : State) : Option Branch := if s.halted then some .halted else none

/-- The key-wait check (R83), on the level of `KEY`. -/
def keyWaitCheck (s : State) : Option Branch :=
  if s.kwBlocked then
    some (match s.key with
      | some k => .resolve k
      | none => .blocked)
  else none

/-- Fetch and decode (R84, R85). -/
def fetchDecode (s : State) : Branch :=
  match decodeWord s.fetched with
  | .ok i => .run s.fetched i
  | .error _ => .invalid s.fetched

/-- The checks in their order (R81, R172, `HALT_BEFORE_KEYWAIT`). -/
def branchOf (s : State) : Branch :=
  ((if params.haltBeforeKeywait then haltCheck s <|> keyWaitCheck s
    else keyWaitCheck s <|> haltCheck s).getD (fetchDecode s))

/-- The effect of a branch (R81). -/
def perform (s : State) : Branch → Result
  | .halted => .next s
  | .blocked => .next s
  | .resolve k => .next (resolveKey k s)
  | .run _ i => exec i s
  | .invalid _ => execInvalid s

/-- One `Step`. -/
def cycle (s : State) : Result := perform s (branchOf s)

/-- The report of a branch whose effect answered `r` (R89); `sys` is reported as an invalid opcode (R92). -/
def reportOf (r : Result) (b : Branch) : Report :=
  match r with
  | .fault f => .fault f
  | .refused q => .refused q
  | .next _ =>
    match b with
    | .halted => .halted
    | .blocked => .blocked
    | .resolve _ => .keyResolved
    | .run w (.sys _) => .executedInvalid w
    | .run _ _ => .executed
    | .invalid w => .executedInvalid w

/-- What a `Step` from this state reports. -/
def report (s : State) : Report := reportOf (cycle s) (branchOf s)

/-- Makes the next `Step` fetch: not blocked, and at an address whose two bytes exist. -/
def State.unblocked (s : State) : State :=
  { s with kwBlocked := false, pc := if s.halted then params.loadAddr else s.pc }

/-- The two bytes of a word stored where the next `Step` fetches. -/
def State.placeWord (s : State) (w : Word) : State :=
  s.unblocked.setBytes s.unblocked.pc.toNat [hiByte w, loByte w]

end Sys2Proof.Machine
end

