-- ==== Sys2Proof/Machine/Step.lean ====
section
/-! DEFINITION. The step function and placing a word for it to fetch. -/

namespace Sys2Proof.Machine

/-- One `Step` (40_step_and_dispatch.md R81). -/
def step (s : State) : Host.Outcome State Fault Refusal := cycle s

/-- The state with a table word stored where `step` fetches its next instruction (assumption log entry 7). -/
def State.withFetchWord (s : State) (nbits w : Nat) : State := s.placeWord (tableWord nbits w)

end Sys2Proof.Machine
end

