-- ==== Sys2Proof/Machine/Events.lean ====
section
/-! DEFINITION. The host's six events (00_scope.md R7), what the host observes (10_state.md R31), and a run as a sequence of events (R11). -/

namespace Sys2Proof.Machine

/-- The events of R7. Each is atomic and no two overlap; the host chooses their order (R201). -/
inductive Event where
  | reset
  | load (bytes : List Byte) (start : Nat)
  | step (rnd : Byte)
  | tick
  | keyUpdate (k : Option Digit)
  | observe
  deriving DecidableEq, Repr

/-- What `Observe` reads (R31): the pixel buffer, the three signals, and the diagnostic snapshot, which is all state. -/
structure Observation where
  pix : Pix
  wantsKey : Bool
  soundActive : Bool
  halted : Bool
  snapshot : State
  deriving DecidableEq, Repr

/-- `wants_key` (R31 (b)). -/
def State.wantsKey (s : State) : Bool := s.kwBlocked

/-- `sound_active` (R31 (c)). -/
def State.soundActive (s : State) : Bool := s.st != 0

/-- The host event `Observe` (R31): it has no effect on state. -/
def observe (s : State) : Observation := ⟨s.pix, s.wantsKey, s.soundActive, s.halted, s⟩

/-- The random inputs of a result replaced: the input `rnd` of a `Step` is gone when the `Step` ends (R7). -/
def withInput (q : List Byte) : Result → Result
  | .next t => .next { t with rndInput := q }
  | .fault f => .fault f
  | .refused r => .refused r

/-- The host event `Step(rnd)` (R7, R81): `rnd` is what `random-and-mask` takes if this step executes it, and is unused
otherwise. -/
def stepWith (rnd : Byte) (s : State) : Result := withInput s.rndInput (step { s with rndInput := rnd :: s.rndInput })

/-- One event. -/
def handle (s : State) : Event → Result
  | .reset => .next (resetCore s)
  | .load bytes start => load bytes start s
  | .step rnd => stepWith rnd s
  | .tick => .next (tick s)
  | .keyUpdate k => .next (keyUpdate k s)
  | .observe => .next s

/-- The state after an event; a fault leaves the state as it was (R166) and the host goes on as it likes (R167). -/
def after (s : State) (e : Event) : State := stateAfter s (handle s e)

/-- The state after a sequence of events (R11). -/
def runEvents (s : State) : List Event → State
  | [] => s
  | e :: es => runEvents (after s e) es

/-- The faults a sequence of events raises, in order (R167: a model records them for the whole run). -/
def faultsOf (s : State) : List Event → List Fault
  | [] => []
  | e :: es =>
    match handle s e with
    | .fault f => f :: faultsOf (after s e) es
    | .next _ => faultsOf (after s e) es
    | .refused _ => faultsOf (after s e) es

/-- The boot sequence of R188: `Reset`, then the program loaded at 0x200. -/
def boot (program : List Byte) (s : State) : Result := load program params.loadAddr.toNat (resetCore s)

end Sys2Proof.Machine
end

