-- ==== Sys2Proof/Safety.lean ====
section
/-! DEFINITION. What claims about the machine are stated in: the invariant of the reachable states, what a state change leaves alone (a
frame), and what a safe run is. -/

namespace Sys2Proof

open Sys2Proof.Machine

/-! ## The invariant -/

/-- What every reachable state satisfies: memory in canonical form; `PC` at most 4350 (10_state.md R17); `SP` within 0 to 15 (R18); every live
stack entry is the address after a `call`, 2 to 4096 (R28), and `STACK[15]` still at its reset value (R19: never written). -/
abbrev Inv (s : State) : Prop :=
  s.mem.wf ∧ s.pc.toNat ≤ 4350 ∧ s.sp.toNat ≤ 15 ∧
  (∀ j, j < s.sp.toNat → ∀ ret ∈ s.slot j, 2 ≤ ret.toNat ∧ ret.toNat ≤ 4096) ∧
  s.slot 15 = some params.resetWord

/-! ## Frames -/

/-- A piece of state (10_state.md R28), `PC` left out. -/
inductive Piece where
  | reg (x : RegIx)
  | i
  | sp
  | stack
  | dt
  | st
  | keyWait
  | key
  | pix
  | mem
  | random
  deriving DecidableEq, Repr

/-- Every piece of state but `PC` and the pieces listed is the same in `t` as in `s`. -/
structure Frame (changed : List Piece) (s t : State) : Prop where
  regs : ∀ x, Piece.reg x ∉ changed → t.reg x = s.reg x
  i : Piece.i ∉ changed → t.i = s.i
  sp : Piece.sp ∉ changed → t.sp = s.sp
  stack : Piece.stack ∉ changed → ∀ j, t.slot j = s.slot j
  dt : Piece.dt ∉ changed → t.dt = s.dt
  st : Piece.st ∉ changed → t.st = s.st
  keyWait : Piece.keyWait ∉ changed → t.kwBlocked = s.kwBlocked ∧ t.kwTarget = s.kwTarget
  key : Piece.key ∉ changed → t.key = s.key
  pix : Piece.pix ∉ changed → ∀ row col, t.pix.byte row col = s.pix.byte row col
  mem : Piece.mem ∉ changed → ∀ a, t.byteAt a = s.byteAt a
  random : Piece.random ∉ changed → t.rndInput = s.rndInput ∧ t.rndDraws = s.rndDraws

/-- `V[0]` to `V[x]` as pieces. -/
def Piece.regsUpTo (x : RegIx) : List Piece := (List.range (x.toNat + 1)).map fun k => .reg (regIx k)

/-! ## What an instruction may write (10_state.md R27, R28) -/

/-- The general registers an instruction names as its destination (R28). -/
def destinations : Instr → List RegIx
  | .loadByte x _ | .addByte x _ | .randomAndMask x _ => [x]
  | .move x _ | .orReg x _ | .andReg x _ | .xorReg x _ => [x]
  | .addReg x _ | .subReg x _ | .shiftRight x _ | .subtractReversed x _ | .shiftLeft x _ => [x]
  | .loadDelayTimer x => [x]
  | .loadRegisterBlock x => (List.range (x.toNat + 1)).map regIx
  | .clearDisplay | .ret | .jump _ | .call _ | .loadAddress _ | .jumpWithOffset _ | .sys _ => []
  | .skipEqualByte _ _ | .skipNotEqualByte _ _ | .skipEqualReg _ _ | .skipNotEqualReg _ _ => []
  | .drawSprite _ _ _ | .skipIfKeyPressed _ | .skipIfKeyNotPressed _ | .waitForKey _ => []
  | .setDelayTimer _ | .setSoundTimer _ | .addToAddress _ | .loadFontAddress _ => []
  | .storeBcd _ | .storeRegisterBlock _ => []

/-- The six instructions that write `VF` as a flag (R27). -/
def writesFlag (i : Instr) : Bool :=
  i.opcode ∈ [Opcode.addReg, .subReg, .shiftRight, .subtractReversed, .shiftLeft, .drawSprite]

/-! ## Sprites (43_display.md R134) -/

/-- Some 1-bit of the sprite lies on the pixel at column `px` and row `py`: bit `7 - j` of sprite row `r` is at column `x0 + j` and row `y0 + r`,
both wrapping (R134; decisions D19, D20, D21). -/
def Covers (s : State) (x y : RegIx) (n : Count) (px py : Nat) : Prop :=
  ∃ r j, r < n.toNat ∧ j < 8 ∧ px = ((s.reg x).toNat % 64 + j) % 64 ∧ py = ((s.reg y).toNat % 32 + r) % 32 ∧
    (s.byteAt (s.base + r)).getLsbD (7 - j) = true

/-! ## Runs -/

/-- A `Step` from this state fetches an instruction: the Core is neither halted nor blocked (40_step_and_dispatch.md R84). -/
def Fetches (s : State) : Prop := s.pc.toNat ≤ 4094 ∧ s.kwBlocked = false

/-- A run of host events that raises no fault, the premise of every claim about a program (60_exceptions.md R167). -/
def SafeRun (s : State) (es : List Event) : Prop := faultsOf s es = []

/-- No `Load` and no `Reset`: the usual premise on what follows the first `Step` (70_reset_and_hazards.md R201). -/
def NoReload (es : List Event) : Prop := ∀ e ∈ es, e ≠ .reset ∧ ∀ bytes start, e ≠ .load bytes start

end Sys2Proof
end

