-- ==== Sys2Proof/Certificates/Slice0/Obligations.lean ====
section
/-! DEFINITION. The statements for the provers. A statement that rests on a decision D<n> of spec/92_eei_decisions.md or on a passage from general knowledge
says so in its docstring; the assumption log (notes/assumptions) has a row for each. -/

open Sys2Proof Sys2Proof.Machine

/-! ## Reset, load, boot, events -/

/-- 10_state.md section 9 and 70_reset_and_hazards.md section 1: the state after `Reset`, and that the event leaves it from any state, in every piece of state of
the spec; the model's own random input fields stay (log entry 2). The values are the spec's decisions D25 and D22 (log entries 1 and 4), `PC = 0x200` is
derived there from the load address. -/
def Obligations.ResetLeavesTheResetTable : Prop :=
  (∀ x, State.reset.reg x = 0) ∧ State.reset.i = 0 ∧ State.reset.pc.toNat = 0x200 ∧ State.reset.sp = 0 ∧
  (∀ j, j < 16 → State.reset.slot j = some 0) ∧ State.reset.dt = 0 ∧ State.reset.st = 0 ∧
  State.reset.kwBlocked = false ∧ State.reset.kwTarget = 0 ∧ State.reset.key = none ∧
  (∀ a, State.reset.pixByte a = 0) ∧
  State.reset.bytesAt 0 40 =
    [0xF0, 0x90, 0x90, 0x90, 0xF0, 0x20, 0x60, 0x20, 0x20, 0x70, 0xF0, 0x10, 0xF0, 0x80, 0xF0, 0xF0, 0x10, 0xF0, 0x10, 0xF0,
     0x90, 0x90, 0xF0, 0x10, 0x10, 0xF0, 0x80, 0xF0, 0x10, 0xF0, 0xF0, 0x80, 0xF0, 0x90, 0xF0, 0xF0, 0x10, 0x20, 0x40, 0x40] ∧
  State.reset.bytesAt 40 40 =
    [0xF0, 0x90, 0xF0, 0x90, 0xF0, 0xF0, 0x90, 0xF0, 0x10, 0xF0, 0xF0, 0x90, 0xF0, 0x90, 0x90, 0xE0, 0x90, 0xE0, 0x90, 0xE0,
     0xF0, 0x80, 0x80, 0x80, 0xF0, 0xE0, 0x90, 0x90, 0x90, 0xE0, 0xF0, 0x80, 0xF0, 0x80, 0xF0, 0xF0, 0x80, 0xF0, 0x80, 0x80] ∧
  (∀ a, 80 ≤ a → State.reset.byteAt a = 0) ∧
  ∀ s : State, handle s .reset = .next { State.reset with rndInput := s.rndInput, rndDraws := s.rndDraws }

/-- 20_memory.md section 2 and 60_exceptions.md section 1, `Load`: bytes that fit are copied in order from the start address, and nothing else changes; bytes
that do not fit raise the fault, and nothing is copied (decisions D11, D31). -/
def Obligations.LoadCopiesTheBytesOrFaults : Prop :=
  ∀ (s : State) (bytes : List Byte) (start : Nat), s.mem.wf →
    (start + bytes.length ≤ 4096 →
      ∃ t, handle s (.load bytes start) = .next t ∧
        (∀ k, k < bytes.length → some (t.byteAt (start + k)) = bytes[k]?) ∧
        (∀ a, a < start ∨ start + bytes.length ≤ a → t.byteAt a = s.byteAt a) ∧
        t.pc = s.pc ∧ Frame [.mem] s t) ∧
    (4096 < start + bytes.length →
      handle s (.load bytes start) = .fault (.loadTooLarge start bytes.length) ∧ after s (.load bytes start) = s)

/-- 70_reset_and_hazards.md section 2: after the boot sequence the first step executes the instruction of the first two program bytes, at 0x200
(decision D25 for the reset values). -/
def Obligations.BootRunsTheFirstLoadedInstruction : Prop :=
  ∀ (s : State) (hi lo : Byte) (rest : List Byte) (i : Instr), rest.length + 2 ≤ 3584 →
    decodeWord (joinBytes hi lo) = .ok i →
    ∃ t, boot (hi :: lo :: rest) s = .next t ∧ t.pc.toNat = 0x200 ∧ step t = exec i t

/-- 44_timers_and_keys.md, `Tick`: each timer loses one and stops at 0, and nothing else changes (decision D15; the floor is general knowledge, log
entry 16). -/
def Obligations.TickCountsBothTimersDown : Prop :=
  ∀ s : State, ∃ t, handle s .tick = .next t ∧ t.dt.toNat = s.dt.toNat - 1 ∧ t.st.toNat = s.st.toNat - 1 ∧
    t.pc = s.pc ∧ Frame [.dt, .st] s t

/-- R150: the event `KeyUpdate(k)` sets `KEY` to `k`, changes nothing else and cannot fault; of several only the last one counts. -/
def Obligations.KeyUpdateSetsTheLatch : Prop :=
  ∀ (s : State) (k : Option Digit), ∃ t, handle s (.keyUpdate k) = .next t ∧ t.key = k ∧ t.pc = s.pc ∧ Frame [.key] s t ∧
    ∀ k', after t (.keyUpdate k') = after s (.keyUpdate k')

/-- 10_state.md section 8: what the host observes, and that observing changes nothing (decision D32 names the outputs). -/
def Obligations.ObserveShowsTheOutputs : Prop :=
  ∀ s : State, handle s .observe = .next s ∧ (observe s).snapshot = s ∧ ((observe s).wantsKey = true ↔ s.kwBlocked = true) ∧
    ((observe s).soundActive = true ↔ s.st ≠ 0) ∧ ((observe s).halted = true ↔ 4094 < s.pc.toNat) ∧
    ∀ row col, (observe s).pix.byte row col = s.pix.byte row col

/-! ## The step -/

/-- 40_step_and_dispatch.md, fetch and dispatch: when the Core is neither halted nor blocked, `step` is the effect of the instruction decoded from
the two bytes at `PC`, high byte first. -/
def Obligations.StepRunsTheDecodedInstruction : Prop :=
  ∀ (s : State) (i : Instr), Fetches s → decodeWord s.fetched = .ok i →
    step s = exec i s ∧
    s.fetched.toNat = (s.byteAt s.pc.toNat).toNat * 256 + (s.byteAt (s.pc.toNat + 1)).toNat

/-- 40_step_and_dispatch.md, invalid opcode: a word that none of rows 1 to 34 selects is a no-op with `PC + 2`, is reported as an invalid opcode and changes
nothing else. Which words those are is decisions D2 and D3 (log entry 3), the report's name D1 (log entry 5), that the words of `sys` are among them D4
(log entry 6). -/
def Obligations.InvalidOpcodeOnlyAdvances : Prop :=
  ∀ s : State, Fetches s → (∀ o ∈ tabulated, s.fetched &&& (opcodeRow o).mask ≠ (opcodeRow o).bits) →
    ∃ t, step s = .next t ∧ t.pc = s.pc + 2 ∧ Frame [] s t ∧ report s = .executedInvalid s.fetched

/-- 40_step_and_dispatch.md, halted and blocked states: with `PC` above 4094 a step changes nothing and reports `Halted`, blocked or not (decision D14); a
blocked step without a key changes nothing and reports `Blocked`. -/
def Obligations.HaltedAndBlockedStepsChangeNothing : Prop :=
  ∀ s : State,
    (4094 < s.pc.toNat → step s = .next s ∧ report s = .halted) ∧
    (s.pc.toNat ≤ 4094 → s.kwBlocked = true → s.key = none → step s = .next s ∧ report s = .blocked)

/-- 40_step_and_dispatch.md, key-wait: a blocked step with a key writes the digit to the target register and lifts the block; `PC`, `KEY` and
everything else stay (decisions D16, D18). -/
def Obligations.BlockedStepWithKeyResolves : Prop :=
  ∀ (s : State) (k : Digit), s.pc.toNat ≤ 4094 → s.kwBlocked = true → s.key = some k →
    ∃ t, step s = .next t ∧ (t.reg s.kwTarget).toNat = k.toNat ∧ t.kwBlocked = false ∧ t.kwTarget = s.kwTarget ∧ t.pc = s.pc ∧
      Frame [.reg s.kwTarget, .keyWait] s t ∧ report s = .keyResolved

/-- 40_step_and_dispatch.md, outcomes: a step that fetches a row of the table reports `Executed` when it goes on (for `sys`, the invalid opcode) and the fault
when it faults (decisions D1, D4). -/
def Obligations.FetchingStepReportsItsOutcome : Prop :=
  ∀ (s : State) (i : Instr), Fetches s → decodeWord s.fetched = .ok i →
    (∀ t, exec i s = .next t → (∀ nnn, i ≠ .sys nnn) → report s = .executed) ∧
    (∀ nnn, i = .sys nnn → report s = .executedInvalid s.fetched) ∧
    (∀ f, exec i s = .fault f → report s = .fault f)

/-- 00_scope.md section 5 and 42_arithmetic_logic.md: in the event `Step(rnd)` that executes `random-and-mask` the result is made of `rnd` itself, and the
input is gone afterwards (decision D27; log entry 2). -/
def Obligations.StepEventFeedsItsRandomByte : Prop :=
  ∀ (s : State) (rnd : Byte) (x : RegIx) (kk : Byte), Fetches s → decodeWord s.fetched = .ok (.randomAndMask x kk) →
    ∃ t, handle s (.step rnd) = .next t ∧ t.reg x = rnd &&& kk ∧ t.pc = s.pc + 2 ∧ Frame [.reg x] s t

/-- 20_memory.md section 4: a store into the next instruction is seen by the very next fetch (an inference the spec marks as derived). -/
def Obligations.StoreIsSeenByTheNextFetch : Prop :=
  ∀ (s : State) (x : RegIx), s.mem.wf → 1 ≤ x.toNat → s.i = s.pc + 2 → s.i.toNat + x.toNat < 4096 →
    ∃ t, exec (.storeRegisterBlock x) s = .next t ∧ t.fetched = joinBytes (s.reg 0) (s.reg 1)

/-! ## Control flow -/

/-- R98: `jump nnn` sets `PC` to `nnn` and nothing else. -/
def Obligations.JumpGoesToItsAddress : Prop :=
  ∀ (s : State) (nnn : Addr12), ∃ t, exec (.jump nnn) s = .next t ∧ t.pc.toNat = nnn.toNat ∧ Frame [] s t

/-- 41_control_flow.md, `call`: with fewer than 15 addresses held it pushes `PC + 2` at `STACK[SP]`, increments `SP` and jumps (decisions D5, D6,
D7). -/
def Obligations.CallPushesTheAddressAfterIt : Prop :=
  ∀ (s : State) (nnn : Addr12), s.sp.toNat < 15 →
    ∃ t, exec (.call nnn) s = .next t ∧ t.pc.toNat = nnn.toNat ∧ t.sp.toNat = s.sp.toNat + 1 ∧
      t.slot s.sp.toNat = some (s.pc + 2) ∧ (∀ j, j ≠ s.sp.toNat → t.slot j = s.slot j) ∧ Frame [.sp, .stack] s t

/-- 41_control_flow.md, `return`: with an address held it pops `STACK[SP - 1]` into `PC`, with no further increment; the entry stays (decision
D6). `SP = 16` is no reachable value; the sixteen entries reach that far. -/
def Obligations.ReturnPopsTheStack : Prop :=
  ∀ s : State, 1 ≤ s.sp.toNat → s.sp.toNat ≤ 16 →
    ∃ t, exec .ret s = .next t ∧ s.slot (s.sp.toNat - 1) = some t.pc ∧ t.sp.toNat = s.sp.toNat - 1 ∧ Frame [.sp] s t

/-- 41_control_flow.md and 60_exceptions.md section 1: `call` with `SP` at 15 or more, and `return` with `SP = 0`, fault with the `PC` of the instruction
(decision D7 for the depth). -/
def Obligations.StackLimitsFault : Prop :=
  (∀ (s : State) (nnn : Addr12), 15 ≤ s.sp.toNat → exec (.call nnn) s = .fault (.stackOverflow s.pc)) ∧
  (∀ s : State, s.sp.toNat = 0 → exec .ret s = .fault (.stackUnderflow s.pc))

/-- 95_test_vectors.md, the source's scenario S7: `call` and then, after a body that leaves `SP` and the stack as it found them, `return` lands on the
instruction after the call with `SP` restored (decisions D5, D6). -/
def Obligations.CallThenReturnComesBack : Prop :=
  ∀ (s : State) (nnn : Addr12), s.sp.toNat < 15 →
    ∃ t, exec (.call nnn) s = .next t ∧ t.pc.toNat = nnn.toNat ∧
      ∀ b : State, b.sp = t.sp → b.stack = t.stack →
        ∃ u, exec .ret b = .next u ∧ u.pc = s.pc + 2 ∧ u.sp = s.sp ∧ Frame [.sp] b u

/-- R100, R101: the byte skips advance `PC` by 4 when their condition holds, else by 2, and change nothing else. -/
def Obligations.ByteSkipsTestARegister : Prop :=
  ∀ (s : State) (x : RegIx) (kk : Byte),
    (∃ t, exec (.skipEqualByte x kk) s = .next t ∧ t.pc = (if s.reg x = kk then s.pc + 4 else s.pc + 2) ∧ Frame [] s t) ∧
    (∃ t, exec (.skipNotEqualByte x kk) s = .next t ∧ t.pc = (if s.reg x ≠ kk then s.pc + 4 else s.pc + 2) ∧ Frame [] s t)

/-- R102, R103: the register skips advance `PC` by 4 when their condition holds, else by 2, and change nothing else. -/
def Obligations.RegisterSkipsCompareTwoRegisters : Prop :=
  ∀ (s : State) (x y : RegIx),
    (∃ t, exec (.skipEqualReg x y) s = .next t ∧ t.pc = (if s.reg x = s.reg y then s.pc + 4 else s.pc + 2) ∧ Frame [] s t) ∧
    (∃ t, exec (.skipNotEqualReg x y) s = .next t ∧ t.pc = (if s.reg x ≠ s.reg y then s.pc + 4 else s.pc + 2) ∧ Frame [] s t)

/-- 41_control_flow.md, `jump-with-offset`: `PC` becomes the plain sum of `nnn` and `V[0]` (decision D26). -/
def Obligations.JumpWithOffsetAddsRegisterZero : Prop :=
  ∀ (s : State) (nnn : Addr12), ∃ t, exec (.jumpWithOffset nnn) s = .next t ∧
    t.pc.toNat = nnn.toNat + (s.reg 0).toNat ∧ Frame [] s t

/-! ## Arithmetic and logic -/

/-- R112, R113: `load-byte` writes the immediate, `add-byte` adds it modulo 256; no flag is written, every other register keeps its value. -/
def Obligations.ByteImmediatesWriteOneRegister : Prop :=
  ∀ (s : State) (x : RegIx) (kk : Byte),
    (∃ t, exec (.loadByte x kk) s = .next t ∧ t.reg x = kk ∧ t.pc = s.pc + 2 ∧ Frame [.reg x] s t) ∧
    (∃ t, exec (.addByte x kk) s = .next t ∧ (t.reg x).toNat = ((s.reg x).toNat + kk.toNat) % 256 ∧ t.pc = s.pc + 2 ∧
      Frame [.reg x] s t)

/-- 42_arithmetic_logic.md, `move`: the destination gets the source register; no flag is written (an inference the spec marks as derived). -/
def Obligations.MoveCopiesARegister : Prop :=
  ∀ (s : State) (x y : RegIx), ∃ t, exec (.move x y) s = .next t ∧ t.reg x = s.reg y ∧ t.pc = s.pc + 2 ∧ Frame [.reg x] s t

/-- R115, R116, R117: `or`, `and`, `xor` work bit by bit, write no flag and change nothing but the destination and `PC`. -/
def Obligations.LogicWorksBitByBit : Prop :=
  ∀ (s : State) (x y : RegIx),
    (∃ t, exec (.orReg x y) s = .next t ∧ (∀ b, (t.reg x).getLsbD b = ((s.reg x).getLsbD b || (s.reg y).getLsbD b)) ∧
      t.pc = s.pc + 2 ∧ Frame [.reg x] s t) ∧
    (∃ t, exec (.andReg x y) s = .next t ∧ (∀ b, (t.reg x).getLsbD b = ((s.reg x).getLsbD b && (s.reg y).getLsbD b)) ∧
      t.pc = s.pc + 2 ∧ Frame [.reg x] s t) ∧
    (∃ t, exec (.xorReg x y) s = .next t ∧ (∀ b, (t.reg x).getLsbD b = ((s.reg x).getLsbD b ^^ (s.reg y).getLsbD b)) ∧
      t.pc = s.pc + 2 ∧ Frame [.reg x] s t)

/-- 42_arithmetic_logic.md, `add`: the 8-bit sum of the operands as they were, and `VF` = carry unless `VF` is the destination, which then holds the sum
(decision D9). -/
def Obligations.AddWritesSumAndCarry : Prop :=
  ∀ (s : State) (x y : RegIx), ∃ t, exec (.addReg x y) s = .next t ∧
    (t.reg x).toNat = ((s.reg x).toNat + (s.reg y).toNat) % 256 ∧
    (x ≠ 15 → t.reg 15 = if 255 < (s.reg x).toNat + (s.reg y).toNat then 1 else 0) ∧
    t.pc = s.pc + 2 ∧ Frame [.reg x, .reg 15] s t

/-- 42_arithmetic_logic.md, `sub` and `subtract-reversed`: the 8-bit difference, and `VF` = 1 exactly when the minuend is greater, unless `VF` is the
destination (decisions D8, D9). -/
def Obligations.SubtractionsWriteDifferenceAndFlag : Prop :=
  ∀ (s : State) (x y : RegIx),
    (∃ t, exec (.subReg x y) s = .next t ∧
      (t.reg x).toNat = ((s.reg x).toNat + 256 - (s.reg y).toNat) % 256 ∧
      (x ≠ 15 → t.reg 15 = if (s.reg y).toNat < (s.reg x).toNat then 1 else 0) ∧
      t.pc = s.pc + 2 ∧ Frame [.reg x, .reg 15] s t) ∧
    (∃ t, exec (.subtractReversed x y) s = .next t ∧
      (t.reg x).toNat = ((s.reg y).toNat + 256 - (s.reg x).toNat) % 256 ∧
      (x ≠ 15 → t.reg 15 = if (s.reg x).toNat < (s.reg y).toNat then 1 else 0) ∧
      t.pc = s.pc + 2 ∧ Frame [.reg x, .reg 15] s t)

/-- 42_arithmetic_logic.md, the shifts: half and double of `V[x]`, and `VF` = the bit shifted out, unless `VF` is the destination; the `y` field plays no
part (decisions D9, D10). -/
def Obligations.ShiftsMoveOneBitOut : Prop :=
  ∀ (s : State) (x y : RegIx),
    (∃ t, exec (.shiftRight x y) s = .next t ∧ (t.reg x).toNat = (s.reg x).toNat / 2 ∧
      (x ≠ 15 → (t.reg 15).toNat = (s.reg x).toNat % 2) ∧ t.pc = s.pc + 2 ∧ Frame [.reg x, .reg 15] s t) ∧
    (∃ t, exec (.shiftLeft x y) s = .next t ∧ (t.reg x).toNat = (s.reg x).toNat * 2 % 256 ∧
      (x ≠ 15 → (t.reg 15).toNat = (s.reg x).toNat / 128) ∧ t.pc = s.pc + 2 ∧ Frame [.reg x, .reg 15] s t)

/-- 42_arithmetic_logic.md, `random-and-mask`: the random byte, whatever it is, masked by the immediate: the host's next byte if it has fixed one, else a
fresh free byte (decision D27; log entry 2). -/
def Obligations.RandomByteIsMasked : Prop :=
  ∀ (s : State) (x : RegIx) (kk : Byte), ∃ (t : State) (rnd : Byte), exec (.randomAndMask x kk) s = .next t ∧
    t.reg x = rnd &&& kk ∧ t.pc = s.pc + 2 ∧ Frame [.reg x, .random] s t ∧
    (∀ r rs, s.rndInput = r :: rs → rnd = r ∧ t.rndInput = rs ∧ t.rndDraws = s.rndDraws) ∧
    (s.rndInput = [] → rnd = Config.freeRandom s.rndDraws ∧ t.rndInput = [] ∧ t.rndDraws = s.rndDraws + 1)

/-- 42_arithmetic_logic.md, `sub`: `add` and then `sub` of the same two registers restores the first. For a sum without wrap that is the source's property S1;
that it holds with a wrap too is the spec's own inference there, marked derived (log entry 27). With a register and itself or with `VF` neither
claims it. -/
def Obligations.AddThenSubRestores : Prop :=
  ∀ (s : State) (x y : RegIx), x ≠ y → x ≠ 15 → y ≠ 15 →
    ∃ t u, exec (.addReg x y) s = .next t ∧ exec (.subReg x y) t = .next u ∧ ∀ z, z ≠ 15 → u.reg z = s.reg z

/-! ## Display -/

/-- R132: `clear-display` zeroes every byte of the pixel buffer, writes no flag and changes nothing else. -/
def Obligations.ClearDisplayZeroesThePixels : Prop :=
  ∀ s : State, ∃ t, exec .clearDisplay s = .next t ∧ (∀ a, t.pixByte a = 0) ∧ t.pc = s.pc + 2 ∧ Frame [.pix] s t

/-- 43_display.md, the sprite pixel by pixel: a draw that stays in memory turns over exactly the pixels under the sprite's 1-bits, wrapping at both edges, and
`VF` = 1 exactly when one of them was lit; a draw of no rows changes no pixel and cannot fault (decisions D19, D20, D21, D24, D35). -/
def Obligations.DrawSpriteXorsPixelByPixel : Prop :=
  ∀ (s : State) (x y : RegIx) (n : Count), n = 0 ∨ s.base + n.toNat ≤ 4096 →
    ∃ t, exec (.drawSprite x y n) s = .next t ∧
      (∀ px py, px < 64 → py < 32 →
        (Covers s x y n px py → t.pix.pixel px py = !s.pix.pixel px py) ∧
        (¬ Covers s x y n px py → t.pix.pixel px py = s.pix.pixel px py)) ∧
      ((∃ px py, px < 64 ∧ py < 32 ∧ Covers s x y n px py ∧ s.pix.pixel px py = true) → t.reg 15 = 1) ∧
      ((¬ ∃ px py, px < 64 ∧ py < 32 ∧ Covers s x y n px py ∧ s.pix.pixel px py = true) → t.reg 15 = 0) ∧
      t.pc = s.pc + 2 ∧ Frame [.pix, .reg 15] s t

/-- 43_display.md, the source's double-draw property S5: the same sprite at the same place a second time restores the pixel buffer, and the second flag is 1 exactly
when some 1-bit of the sprite landed on an unlit pixel first (decisions D19, D20, D21). A coordinate register that is `VF` is changed by the
first draw, so the place is then another one. -/
def Obligations.DrawingTwiceRestoresThePixels : Prop :=
  ∀ (s : State) (x y : RegIx) (n : Count), x ≠ 15 → y ≠ 15 → n = 0 ∨ s.base + n.toNat ≤ 4096 →
    ∃ t u, exec (.drawSprite x y n) s = .next t ∧ exec (.drawSprite x y n) t = .next u ∧ u.pix = s.pix ∧
      (u.reg 15 = 1 ↔ ∃ px py, px < 64 ∧ py < 32 ∧ Covers s x y n px py ∧ s.pix.pixel px py = false)

/-! ## Keys and timers -/

/-- 44_timers_and_keys.md, the key skips: the whole register is compared with the digit held; with no key, another key or a value above 15 the key is not
pressed, and exactly one of the two skips is taken (decision D17). -/
def Obligations.KeySkipsTestTheHeldKey : Prop :=
  ∀ (s : State) (x : RegIx),
    (∃ t, exec (.skipIfKeyPressed x) s = .next t ∧
      ((∃ k, s.key = some k ∧ (s.reg x).toNat = k.toNat) → t.pc = s.pc + 4) ∧
      ((¬ ∃ k, s.key = some k ∧ (s.reg x).toNat = k.toNat) → t.pc = s.pc + 2) ∧ Frame [] s t) ∧
    (∃ t, exec (.skipIfKeyNotPressed x) s = .next t ∧
      ((∃ k, s.key = some k ∧ (s.reg x).toNat = k.toNat) → t.pc = s.pc + 2) ∧
      ((¬ ∃ k, s.key = some k ∧ (s.reg x).toNat = k.toNat) → t.pc = s.pc + 4) ∧ Frame [] s t)

/-- R143, R145 (and 44_timers_and_keys.md, `set-sound-timer`): `load-delay-timer` reads `DT` into a register, `set-delay-timer` and `set-sound-timer` write a register to `DT` and `ST`; no
flag is written. -/
def Obligations.TimerInstructionsMoveTimers : Prop :=
  ∀ (s : State) (x : RegIx),
    (∃ t, exec (.loadDelayTimer x) s = .next t ∧ t.reg x = s.dt ∧ t.pc = s.pc + 2 ∧ Frame [.reg x] s t) ∧
    (∃ t, exec (.setDelayTimer x) s = .next t ∧ t.dt = s.reg x ∧ t.pc = s.pc + 2 ∧ Frame [.dt] s t) ∧
    (∃ t, exec (.setSoundTimer x) s = .next t ∧ t.st = s.reg x ∧ t.pc = s.pc + 2 ∧ Frame [.st] s t)

/-- 44_timers_and_keys.md, `wait-for-key`: the Core is blocked with the register as target, `PC` advances once, no register is written and the key is not looked
at (decision D18). -/
def Obligations.WaitForKeyBlocks : Prop :=
  ∀ (s : State) (x : RegIx), ∃ t, exec (.waitForKey x) s = .next t ∧ t.kwBlocked = true ∧ t.kwTarget = x ∧
    t.pc = s.pc + 2 ∧ Frame [.keyWait] s t

/-- 95_test_vectors.md, the source's scenario S8: after `wait-for-key` any number of steps without a key change nothing; the step after a key is reported puts
the digit into the register, `PC` where it was; the block is gone (decisions D16, D18). -/
def Obligations.WaitForKeyScenario : Prop :=
  ∀ (s t : State) (x : RegIx) (k : Digit) (waits : List Byte), s.pc.toNat ≤ 4092 → s.key = none →
    exec (.waitForKey x) s = .next t →
    runEvents t (waits.map .step) = t ∧
    ∃ u, step (after (runEvents t (waits.map .step)) (.keyUpdate (some k))) = .next u ∧ (u.reg x).toNat = k.toNat ∧
      u.kwBlocked = false ∧ u.pc = s.pc + 2 ∧ ∀ z, z ≠ x → u.reg z = s.reg z

/-! ## Address register and memory -/

/-- R151, R152: `load-address` sets `I` to the 12-bit immediate, `add-to-address` adds a register modulo 65536; no flag is written. -/
def Obligations.AddressRegisterIsLoadedAndAdded : Prop :=
  (∀ (s : State) (nnn : Addr12), ∃ t, exec (.loadAddress nnn) s = .next t ∧ t.i.toNat = nnn.toNat ∧ t.pc = s.pc + 2 ∧
    Frame [.i] s t) ∧
  (∀ (s : State) (x : RegIx), ∃ t, exec (.addToAddress x) s = .next t ∧
    t.i.toNat = (s.i.toNat + (s.reg x).toNat) % 65536 ∧ t.pc = s.pc + 2 ∧ Frame [.i] s t)

/-- 45_address_and_memory.md, `load-font-address`: `I` becomes 5 times the digit; a register above 15 leaves `I`, and `PC` advances all the same (decision
D23). -/
def Obligations.LoadFontAddressPointsAtTheGlyph : Prop :=
  ∀ (s : State) (x : RegIx), ∃ t, exec (.loadFontAddress x) s = .next t ∧
    ((s.reg x).toNat ≤ 15 → t.i.toNat = 5 * (s.reg x).toNat) ∧ (15 < (s.reg x).toNat → t.i = s.i) ∧
    t.pc = s.pc + 2 ∧ Frame [.i] s t

/-- 45_address_and_memory.md, `store-BCD`: in range it stores hundreds, tens and ones at `I`, `I + 1`, `I + 2`, and no other byte or register changes (decision D24:
`I` stays). -/
def Obligations.StoreBcdStoresThreeDigits : Prop :=
  ∀ (s : State) (x : RegIx), s.mem.wf → s.base + 3 ≤ 4096 →
    ∃ t, exec (.storeBcd x) s = .next t ∧
      (t.byteAt s.base).toNat = (s.reg x).toNat / 100 ∧
      (t.byteAt (s.base + 1)).toNat = (s.reg x).toNat / 10 % 10 ∧
      (t.byteAt (s.base + 2)).toNat = (s.reg x).toNat % 10 ∧
      (∀ a, a < s.base ∨ s.base + 3 ≤ a → t.byteAt a = s.byteAt a) ∧
      t.pc = s.pc + 2 ∧ Frame [.mem] s t

/-- 45_address_and_memory.md, `store-register-block`: in range `V[k]` goes to `I + k` for `k` from 0 to `x`, and no other byte or register changes (decision D24:
`I` stays). -/
def Obligations.StoreBlockStoresTheRegisters : Prop :=
  ∀ (s : State) (x : RegIx), s.mem.wf → s.base + blockSize x ≤ 4096 →
    ∃ t, exec (.storeRegisterBlock x) s = .next t ∧
      (∀ k : RegIx, k.toNat ≤ x.toNat → t.byteAt (s.base + k.toNat) = s.reg k) ∧
      (∀ a, a < s.base ∨ s.base + blockSize x ≤ a → t.byteAt a = s.byteAt a) ∧
      t.pc = s.pc + 2 ∧ Frame [.mem] s t

/-- 45_address_and_memory.md, `load-register-block`: in range `V[k]` is loaded from `I + k` for `k` from 0 to `x`; the registers above `x`, memory and `I` keep
their values (decision D24). -/
def Obligations.LoadBlockLoadsTheRegisters : Prop :=
  ∀ (s : State) (x : RegIx), s.base + blockSize x ≤ 4096 →
    ∃ t, exec (.loadRegisterBlock x) s = .next t ∧
      (∀ k : RegIx, k.toNat ≤ x.toNat → t.reg k = s.byteAt (s.base + k.toNat)) ∧
      (∀ k : RegIx, x.toNat < k.toNat → t.reg k = s.reg k) ∧
      t.pc = s.pc + 2 ∧ Frame (Piece.regsUpTo x) s t

/-- 60_exceptions.md section 1: a memory instruction that would touch an address of 4096 or more faults with the lowest such address (decisions D11, D13,
D33). -/
def Obligations.AccessPastTheEndFaults : Prop :=
  ∀ (s : State) (x y : RegIx) (n : Count),
    (4096 < s.base + 3 → exec (.storeBcd x) s = .fault (.memOutOfRange (max s.base 4096))) ∧
    (4096 < s.base + blockSize x → exec (.storeRegisterBlock x) s = .fault (.memOutOfRange (max s.base 4096))) ∧
    (4096 < s.base + blockSize x → exec (.loadRegisterBlock x) s = .fault (.memOutOfRange (max s.base 4096))) ∧
    (n ≠ 0 → 4096 < s.base + n.toNat → exec (.drawSprite x y n) s = .fault (.memOutOfRange (max s.base 4096)))

/-- 95_test_vectors.md, the source's property S2: `load-register-block` and then `store-register-block` with the same bound leaves the registers as loaded and
memory as it was (decision D24). -/
def Obligations.LoadBlockThenStoreBlockIsIdentity : Prop :=
  ∀ (s : State) (x : RegIx), s.mem.wf → s.base + blockSize x ≤ 4096 →
    ∃ t u, exec (.loadRegisterBlock x) s = .next t ∧ exec (.storeRegisterBlock x) t = .next u ∧
      u.mem = s.mem ∧ ∀ k, u.reg k = t.reg k

/-- 40_step_and_dispatch.md, `sys`: only `PC` advances (decision D4). -/
def Obligations.SysOnlyAdvances : Prop :=
  ∀ (s : State) (nnn : Addr12), ∃ t, exec (.sys nnn) s = .next t ∧ t.pc = s.pc + 2 ∧ Frame [] s t

/-! ## Whole-machine rules -/

/-- 10_state.md section 7: which instructions may write which piece of state other than the general registers; in particular no instruction writes
`KEY`, and `DT` and `ST` change only by `set-delay-timer` and `set-sound-timer`. -/
def Obligations.EachPieceHasItsWriters : Prop :=
  ∀ (i : Instr) (s t : State), exec i s = .next t →
    t.key = s.key ∧
    (i.opcode ≠ .setDelayTimer → t.dt = s.dt) ∧ (i.opcode ≠ .setSoundTimer → t.st = s.st) ∧
    (i.opcode ∉ [Opcode.loadAddress, .addToAddress, .loadFontAddress] → t.i = s.i) ∧
    (i.opcode ∉ [Opcode.call, .ret] → t.sp = s.sp) ∧ (i.opcode ≠ .call → t.stack = s.stack) ∧
    (i.opcode ≠ .waitForKey → t.kwBlocked = s.kwBlocked ∧ t.kwTarget = s.kwTarget) ∧
    (i.opcode ∉ [Opcode.clearDisplay, .drawSprite] → t.pix = s.pix) ∧
    (i.opcode ∉ [Opcode.storeBcd, .storeRegisterBlock] → t.mem = s.mem) ∧
    (i.opcode ≠ .randomAndMask → t.rndInput = s.rndInput ∧ t.rndDraws = s.rndDraws)

/-- 10_state.md section 7: an instruction changes only its destination registers, and `VF` if it is one of the six flag writers. -/
def Obligations.OnlyDestinationsAndTheFlagChange : Prop :=
  ∀ (i : Instr) (s t : State), exec i s = .next t →
    ∀ z, z ∉ destinations i → (writesFlag i = true → z ≠ 15) → t.reg z = s.reg z

/-- 60_exceptions.md sections 1 and 2: an instruction faults only as `call` on a full stack, `return` on an empty one, or one of the four memory instructions past
the end; an instruction that faults raises exactly that fault (decisions D7, D33; log entry 8 for `SP` above 16). -/
def Obligations.OnlySixInstructionsFault : Prop :=
  ∀ (i : Instr) (s : State) (f : Fault), exec i s = .fault f →
    (∃ nnn, i = .call nnn ∧ 15 ≤ s.sp.toNat ∧ f = .stackOverflow s.pc) ∨
    (i = .ret ∧ (s.sp.toNat = 0 ∨ 16 < s.sp.toNat) ∧ f = .stackUnderflow s.pc) ∨
    (f = .memOutOfRange (max s.base 4096) ∧
      ((∃ x y n, i = .drawSprite x y n ∧ n ≠ 0 ∧ 4096 < s.base + n.toNat) ∨
       (∃ x, i = .storeBcd x ∧ 4096 < s.base + 3) ∨
       (∃ x, i = .storeRegisterBlock x ∧ 4096 < s.base + blockSize x) ∨
       (∃ x, i = .loadRegisterBlock x ∧ 4096 < s.base + blockSize x)))

/-- The model refuses nothing: no event and no step is answered with a refusal. -/
def Obligations.NothingIsRefused : Prop :=
  ∀ (s : State) (r : Refusal), step s ≠ .refused r ∧ ∀ e, handle s e ≠ .refused r

/-- 60_exceptions.md section 1: after a fault the state is unchanged, the same fault comes again whatever the timers, the key and the random input do in
between, and a run with a further step is never a safe one (decision D11). -/
def Obligations.FaultComesAgain : Prop :=
  ∀ (s : State) (f : Fault) (rnd : Byte), step s = .fault f →
    handle s (.step rnd) = .fault f ∧ after s (.step rnd) = s ∧
    ∀ es : List Event, NoReload es → step (runEvents s es) = .fault f ∧ ∀ r, ¬ SafeRun s (es ++ [.step r])

/-- 40_step_and_dispatch.md, halted state: only `Reset` leaves it. Under any other events `PC`, the registers, the stack, the pixels and the key-wait state stay as
they are, and without a `Load` memory does too (decision D14). -/
def Obligations.OnlyResetLeavesTheHaltedState : Prop :=
  ∀ (s : State) (es : List Event), 4094 < s.pc.toNat → (∀ e ∈ es, e ≠ .reset) →
    (runEvents s es).pc = s.pc ∧ Frame [.mem, .dt, .st, .key] s (runEvents s es) ∧
    (NoReload es → (runEvents s es).mem = s.mem)

/-- 60_exceptions.md section 4: a blocked Core with no key keeps everything but the timers, whatever number of steps, ticks and observations follow. -/
def Obligations.BlockedCoreKeepsItsState : Prop :=
  ∀ (s : State) (es : List Event), s.kwBlocked = true → s.key = none →
    (∀ e ∈ es, e = .tick ∨ e = .observe ∨ e = .keyUpdate none ∨ ∃ r, e = .step r) →
    (runEvents s es).pc = s.pc ∧ Frame [.dt, .st] s (runEvents s es)

/-! ## Invariants -/

/-- The invariant holds after reset. -/
def Obligations.InvariantHoldsAtReset : Prop := Inv State.reset

/-- 10_state.md section 2: every step keeps the invariant: memory in canonical form, `PC` at most 4350, `SP` within 0 to 15, live stack entries from 2 to 4096,
`STACK[15]` never written (decisions D6, D7, D26). -/
def Obligations.StepKeepsTheInvariant : Prop :=
  ∀ s t : State, Inv s → step s = .next t → Inv t

/-- Every sequence of host events keeps the invariant, faults included. -/
def Obligations.EventsKeepTheInvariant : Prop :=
  ∀ (s : State) (es : List Event), Inv s → Inv (runEvents s es)

/-! ## Encoding -/

/-- 30_encoding.md section 4: the decoder reads back every well-formed instruction from its word and from its two bytes, every operand at every value. -/
def Obligations.DecodeOfEncode : Prop :=
  ∀ i : Instr, WellFormed i → decodeWord (encode i) = .ok i ∧ ∀ rest, decode (encodeBytes i ++ rest) = .ok (i, rest)

/-- A word that decodes is the word of the instruction it decodes to, which is well-formed: each instruction has one word. -/
def Obligations.EncodeOfDecode : Prop :=
  ∀ (w : Word) (i : Instr), decodeWord w = .ok i → encode i = w ∧ WellFormed i

/-- 30_encoding.md section 2: a row of 1 to 34 selects a word exactly by mask and match: a word that matches decodes to that row, a word that decodes to a row
matches it, and no two of the rows select the same word (decisions D2, D3; log entry 3). -/
def Obligations.RowsSelectByMaskAndMatch : Prop :=
  ∀ w : Word,
    (∀ o ∈ tabulated, w &&& (opcodeRow o).mask = (opcodeRow o).bits → decodeWord w = .ok (o.build w)) ∧
    (∀ o ∈ tabulated, ∀ i, decodeWord w = .ok i → i.opcode = o → w &&& (opcodeRow o).mask = (opcodeRow o).bits) ∧
    (∀ o ∈ tabulated, ∀ p ∈ tabulated, w &&& (opcodeRow o).mask = (opcodeRow o).bits →
      w &&& (opcodeRow p).mask = (opcodeRow p).bits → o = p)

/-- 30_encoding.md section 3: the decoder rejects exactly the invalid words of families 5, 8, 9, E and F, and reads every word `0nnn` of family 0 other than
`00E0` and `00EE`, invalid there too, as `sys nnn`, which has the same effect (decisions D2, D3, D4; log entries 3, 6). -/
def Obligations.InvalidWordsByFamily : Prop :=
  (∀ w : Word, decodeWord w = .error (.invalidOpcode w) ↔
    let op := w.toNat / 4096
    let n := w.toNat % 16
    let kk := w.toNat % 256
    (op = 5 ∧ n ≠ 0) ∨ (op = 8 ∧ n ∈ [8, 9, 0xA, 0xB, 0xC, 0xD, 0xF]) ∨ (op = 9 ∧ n ≠ 0) ∨
    (op = 0xE ∧ kk ∉ [0x9E, 0xA1]) ∨ (op = 0xF ∧ kk ∉ [0x07, 0x0A, 0x15, 0x18, 0x1E, 0x29, 0x33, 0x55, 0x65])) ∧
  (∀ nnn : Addr12, nnn ≠ 0x0E0 → nnn ≠ 0x0EE → decodeWord (0#4 ++ nnn) = .ok (.sys nnn))

/-- 30_encoding.md section 2: some words written out from the encodings decode to their instructions: the source's own three, at least one of every family, and an
invalid one (decisions D2, D3; log entry 3). -/
def Obligations.SampleWordsDecode : Prop :=
  (decodeWord 0x60FF#16 = .ok (.loadByte 0 0xFF) ∧ decodeWord 0x61FF#16 = .ok (.loadByte 1 0xFF) ∧
    decodeWord 0x8014#16 = .ok (.addReg 0 1)) ∧
  (decodeWord 0x00EE#16 = .ok .ret ∧ decodeWord 0x1ABC#16 = .ok (.jump 0xABC) ∧ decodeWord 0x2300#16 = .ok (.call 0x300) ∧
    decodeWord 0x3210#16 = .ok (.skipEqualByte 2 0x10) ∧ decodeWord 0x4211#16 = .ok (.skipNotEqualByte 2 0x11) ∧
    decodeWord 0x5120#16 = .ok (.skipEqualReg 1 2) ∧ decodeWord 0x7305#16 = .ok (.addByte 3 5) ∧
    decodeWord 0x9120#16 = .ok (.skipNotEqualReg 1 2)) ∧
  (decodeWord 0xA2F0#16 = .ok (.loadAddress 0x2F0) ∧ decodeWord 0xBFFF#16 = .ok (.jumpWithOffset 0xFFF) ∧
    decodeWord 0xC30F#16 = .ok (.randomAndMask 3 0x0F) ∧ decodeWord 0xD125#16 = .ok (.drawSprite 1 2 5) ∧
    decodeWord 0xE4A1#16 = .ok (.skipIfKeyNotPressed 4) ∧ decodeWord 0xF265#16 = .ok (.loadRegisterBlock 2)) ∧
  decodeWord 0x5AB1#16 = .error (.invalidOpcode 0x5AB1)
end

