-- ==== Sys2Proof/Laws/State.lean ====
section
/-! SUPPORT. The small lemmas of State: for each update, one lemma per field it leaves alone, and what the accessors read after it. -/

namespace Sys2Proof.Machine

/-! ## Parameters -/
@[simp] theorem params_memSize : params.memSize = 4096 := rfl
@[simp] theorem params_loadAddr : params.loadAddr = 0x200#16 := rfl
@[simp] theorem params_flagReg : params.flagReg = 15#4 := rfl
@[simp] theorem params_spMax : params.spMax = 15 := rfl
@[simp] theorem params_screenW : params.screenW = 64 := rfl
@[simp] theorem params_screenH : params.screenH = 32 := rfl
@[simp] theorem params_insnBytes : params.insnBytes = 2 := rfl
@[simp] theorem params_haltLimit : params.haltLimit = 4094 := rfl
@[simp] theorem params_glyphBytes : params.glyphBytes = 5 := rfl
@[simp] theorem params_fontBase : params.fontBase = 0 := rfl
@[simp] theorem params_shiftSource : params.shiftSource = ShiftSource.vx := rfl
@[simp] theorem params_subFlagOnEqual : params.subFlagOnEqual = 0#8 := rfl
@[simp] theorem params_drawVertical : params.drawVertical = VerticalRule.wrap := rfl
@[simp] theorem params_pixelMsbLeft : params.pixelMsbLeft = true := rfl
@[simp] theorem params_haltBeforeKeywait : params.haltBeforeKeywait = true := rfl
@[simp] theorem params_resetByte : params.resetByte = 0#8 := rfl
@[simp] theorem params_resetWord : params.resetWord = 0#16 := rfl

/-! ## setReg -/
@[simp] theorem State.setReg_i (s : State) (x : RegIx) (b : Byte) : (s.setReg x b).i = s.i := rfl
@[simp] theorem State.setReg_pc (s : State) (x : RegIx) (b : Byte) : (s.setReg x b).pc = s.pc := rfl
@[simp] theorem State.setReg_sp (s : State) (x : RegIx) (b : Byte) : (s.setReg x b).sp = s.sp := rfl
@[simp] theorem State.setReg_stack (s : State) (x : RegIx) (b : Byte) : (s.setReg x b).stack = s.stack := rfl
@[simp] theorem State.setReg_dt (s : State) (x : RegIx) (b : Byte) : (s.setReg x b).dt = s.dt := rfl
@[simp] theorem State.setReg_st (s : State) (x : RegIx) (b : Byte) : (s.setReg x b).st = s.st := rfl
@[simp] theorem State.setReg_kwBlocked (s : State) (x : RegIx) (b : Byte) : (s.setReg x b).kwBlocked = s.kwBlocked := rfl
@[simp] theorem State.setReg_kwTarget (s : State) (x : RegIx) (b : Byte) : (s.setReg x b).kwTarget = s.kwTarget := rfl
@[simp] theorem State.setReg_key (s : State) (x : RegIx) (b : Byte) : (s.setReg x b).key = s.key := rfl
@[simp] theorem State.setReg_pix (s : State) (x : RegIx) (b : Byte) : (s.setReg x b).pix = s.pix := rfl
@[simp] theorem State.setReg_mem (s : State) (x : RegIx) (b : Byte) : (s.setReg x b).mem = s.mem := rfl
@[simp] theorem State.setReg_rndInput (s : State) (x : RegIx) (b : Byte) : (s.setReg x b).rndInput = s.rndInput := rfl
@[simp] theorem State.setReg_rndDraws (s : State) (x : RegIx) (b : Byte) : (s.setReg x b).rndDraws = s.rndDraws := rfl

/-! ## jumpTo -/
@[simp] theorem State.jumpTo_v (s : State) (w : Word) : (s.jumpTo w).v = s.v := rfl
@[simp] theorem State.jumpTo_i (s : State) (w : Word) : (s.jumpTo w).i = s.i := rfl
@[simp] theorem State.jumpTo_sp (s : State) (w : Word) : (s.jumpTo w).sp = s.sp := rfl
@[simp] theorem State.jumpTo_stack (s : State) (w : Word) : (s.jumpTo w).stack = s.stack := rfl
@[simp] theorem State.jumpTo_dt (s : State) (w : Word) : (s.jumpTo w).dt = s.dt := rfl
@[simp] theorem State.jumpTo_st (s : State) (w : Word) : (s.jumpTo w).st = s.st := rfl
@[simp] theorem State.jumpTo_kwBlocked (s : State) (w : Word) : (s.jumpTo w).kwBlocked = s.kwBlocked := rfl
@[simp] theorem State.jumpTo_kwTarget (s : State) (w : Word) : (s.jumpTo w).kwTarget = s.kwTarget := rfl
@[simp] theorem State.jumpTo_key (s : State) (w : Word) : (s.jumpTo w).key = s.key := rfl
@[simp] theorem State.jumpTo_pix (s : State) (w : Word) : (s.jumpTo w).pix = s.pix := rfl
@[simp] theorem State.jumpTo_mem (s : State) (w : Word) : (s.jumpTo w).mem = s.mem := rfl
@[simp] theorem State.jumpTo_rndInput (s : State) (w : Word) : (s.jumpTo w).rndInput = s.rndInput := rfl
@[simp] theorem State.jumpTo_rndDraws (s : State) (w : Word) : (s.jumpTo w).rndDraws = s.rndDraws := rfl

/-! ## advance -/
@[simp] theorem State.advance_v (s : State) : (s.advance).v = s.v := rfl
@[simp] theorem State.advance_i (s : State) : (s.advance).i = s.i := rfl
@[simp] theorem State.advance_sp (s : State) : (s.advance).sp = s.sp := rfl
@[simp] theorem State.advance_stack (s : State) : (s.advance).stack = s.stack := rfl
@[simp] theorem State.advance_dt (s : State) : (s.advance).dt = s.dt := rfl
@[simp] theorem State.advance_st (s : State) : (s.advance).st = s.st := rfl
@[simp] theorem State.advance_kwBlocked (s : State) : (s.advance).kwBlocked = s.kwBlocked := rfl
@[simp] theorem State.advance_kwTarget (s : State) : (s.advance).kwTarget = s.kwTarget := rfl
@[simp] theorem State.advance_key (s : State) : (s.advance).key = s.key := rfl
@[simp] theorem State.advance_pix (s : State) : (s.advance).pix = s.pix := rfl
@[simp] theorem State.advance_mem (s : State) : (s.advance).mem = s.mem := rfl
@[simp] theorem State.advance_rndInput (s : State) : (s.advance).rndInput = s.rndInput := rfl
@[simp] theorem State.advance_rndDraws (s : State) : (s.advance).rndDraws = s.rndDraws := rfl

/-! ## skipIf -/
@[simp] theorem State.skipIf_v (s : State) (c : Bool) : (s.skipIf c).v = s.v := by cases c <;> rfl
@[simp] theorem State.skipIf_i (s : State) (c : Bool) : (s.skipIf c).i = s.i := by cases c <;> rfl
@[simp] theorem State.skipIf_sp (s : State) (c : Bool) : (s.skipIf c).sp = s.sp := by cases c <;> rfl
@[simp] theorem State.skipIf_stack (s : State) (c : Bool) : (s.skipIf c).stack = s.stack := by cases c <;> rfl
@[simp] theorem State.skipIf_dt (s : State) (c : Bool) : (s.skipIf c).dt = s.dt := by cases c <;> rfl
@[simp] theorem State.skipIf_st (s : State) (c : Bool) : (s.skipIf c).st = s.st := by cases c <;> rfl
@[simp] theorem State.skipIf_kwBlocked (s : State) (c : Bool) : (s.skipIf c).kwBlocked = s.kwBlocked := by cases c <;> rfl
@[simp] theorem State.skipIf_kwTarget (s : State) (c : Bool) : (s.skipIf c).kwTarget = s.kwTarget := by cases c <;> rfl
@[simp] theorem State.skipIf_key (s : State) (c : Bool) : (s.skipIf c).key = s.key := by cases c <;> rfl
@[simp] theorem State.skipIf_pix (s : State) (c : Bool) : (s.skipIf c).pix = s.pix := by cases c <;> rfl
@[simp] theorem State.skipIf_mem (s : State) (c : Bool) : (s.skipIf c).mem = s.mem := by cases c <;> rfl
@[simp] theorem State.skipIf_rndInput (s : State) (c : Bool) : (s.skipIf c).rndInput = s.rndInput := by cases c <;> rfl
@[simp] theorem State.skipIf_rndDraws (s : State) (c : Bool) : (s.skipIf c).rndDraws = s.rndDraws := by cases c <;> rfl

/-! ## setByte -/
@[simp] theorem State.setByte_v (s : State) (a : Nat) (b : Byte) : (s.setByte a b).v = s.v := rfl
@[simp] theorem State.setByte_i (s : State) (a : Nat) (b : Byte) : (s.setByte a b).i = s.i := rfl
@[simp] theorem State.setByte_pc (s : State) (a : Nat) (b : Byte) : (s.setByte a b).pc = s.pc := rfl
@[simp] theorem State.setByte_sp (s : State) (a : Nat) (b : Byte) : (s.setByte a b).sp = s.sp := rfl
@[simp] theorem State.setByte_stack (s : State) (a : Nat) (b : Byte) : (s.setByte a b).stack = s.stack := rfl
@[simp] theorem State.setByte_dt (s : State) (a : Nat) (b : Byte) : (s.setByte a b).dt = s.dt := rfl
@[simp] theorem State.setByte_st (s : State) (a : Nat) (b : Byte) : (s.setByte a b).st = s.st := rfl
@[simp] theorem State.setByte_kwBlocked (s : State) (a : Nat) (b : Byte) : (s.setByte a b).kwBlocked = s.kwBlocked := rfl
@[simp] theorem State.setByte_kwTarget (s : State) (a : Nat) (b : Byte) : (s.setByte a b).kwTarget = s.kwTarget := rfl
@[simp] theorem State.setByte_key (s : State) (a : Nat) (b : Byte) : (s.setByte a b).key = s.key := rfl
@[simp] theorem State.setByte_pix (s : State) (a : Nat) (b : Byte) : (s.setByte a b).pix = s.pix := rfl
@[simp] theorem State.setByte_rndInput (s : State) (a : Nat) (b : Byte) : (s.setByte a b).rndInput = s.rndInput := rfl
@[simp] theorem State.setByte_rndDraws (s : State) (a : Nat) (b : Byte) : (s.setByte a b).rndDraws = s.rndDraws := rfl

/-! ## push -/
@[simp] theorem State.push_v (s : State) (w : Word) : (s.push w).v = s.v := rfl
@[simp] theorem State.push_i (s : State) (w : Word) : (s.push w).i = s.i := rfl
@[simp] theorem State.push_pc (s : State) (w : Word) : (s.push w).pc = s.pc := rfl
@[simp] theorem State.push_dt (s : State) (w : Word) : (s.push w).dt = s.dt := rfl
@[simp] theorem State.push_st (s : State) (w : Word) : (s.push w).st = s.st := rfl
@[simp] theorem State.push_kwBlocked (s : State) (w : Word) : (s.push w).kwBlocked = s.kwBlocked := rfl
@[simp] theorem State.push_kwTarget (s : State) (w : Word) : (s.push w).kwTarget = s.kwTarget := rfl
@[simp] theorem State.push_key (s : State) (w : Word) : (s.push w).key = s.key := rfl
@[simp] theorem State.push_pix (s : State) (w : Word) : (s.push w).pix = s.pix := rfl
@[simp] theorem State.push_mem (s : State) (w : Word) : (s.push w).mem = s.mem := rfl
@[simp] theorem State.push_rndInput (s : State) (w : Word) : (s.push w).rndInput = s.rndInput := rfl
@[simp] theorem State.push_rndDraws (s : State) (w : Word) : (s.push w).rndDraws = s.rndDraws := rfl

/-! ## pop -/
@[simp] theorem State.pop_v (s : State) : (s.pop).v = s.v := rfl
@[simp] theorem State.pop_i (s : State) : (s.pop).i = s.i := rfl
@[simp] theorem State.pop_pc (s : State) : (s.pop).pc = s.pc := rfl
@[simp] theorem State.pop_stack (s : State) : (s.pop).stack = s.stack := rfl
@[simp] theorem State.pop_dt (s : State) : (s.pop).dt = s.dt := rfl
@[simp] theorem State.pop_st (s : State) : (s.pop).st = s.st := rfl
@[simp] theorem State.pop_kwBlocked (s : State) : (s.pop).kwBlocked = s.kwBlocked := rfl
@[simp] theorem State.pop_kwTarget (s : State) : (s.pop).kwTarget = s.kwTarget := rfl
@[simp] theorem State.pop_key (s : State) : (s.pop).key = s.key := rfl
@[simp] theorem State.pop_pix (s : State) : (s.pop).pix = s.pix := rfl
@[simp] theorem State.pop_mem (s : State) : (s.pop).mem = s.mem := rfl
@[simp] theorem State.pop_rndInput (s : State) : (s.pop).rndInput = s.rndInput := rfl
@[simp] theorem State.pop_rndDraws (s : State) : (s.pop).rndDraws = s.rndDraws := rfl

/-! ## setFlag -/
@[simp] theorem State.setFlag_i (s : State) (b : Byte) : (s.setFlag b).i = s.i := rfl
@[simp] theorem State.setFlag_pc (s : State) (b : Byte) : (s.setFlag b).pc = s.pc := rfl
@[simp] theorem State.setFlag_sp (s : State) (b : Byte) : (s.setFlag b).sp = s.sp := rfl
@[simp] theorem State.setFlag_stack (s : State) (b : Byte) : (s.setFlag b).stack = s.stack := rfl
@[simp] theorem State.setFlag_dt (s : State) (b : Byte) : (s.setFlag b).dt = s.dt := rfl
@[simp] theorem State.setFlag_st (s : State) (b : Byte) : (s.setFlag b).st = s.st := rfl
@[simp] theorem State.setFlag_kwBlocked (s : State) (b : Byte) : (s.setFlag b).kwBlocked = s.kwBlocked := rfl
@[simp] theorem State.setFlag_kwTarget (s : State) (b : Byte) : (s.setFlag b).kwTarget = s.kwTarget := rfl
@[simp] theorem State.setFlag_key (s : State) (b : Byte) : (s.setFlag b).key = s.key := rfl
@[simp] theorem State.setFlag_pix (s : State) (b : Byte) : (s.setFlag b).pix = s.pix := rfl
@[simp] theorem State.setFlag_mem (s : State) (b : Byte) : (s.setFlag b).mem = s.mem := rfl
@[simp] theorem State.setFlag_rndInput (s : State) (b : Byte) : (s.setFlag b).rndInput = s.rndInput := rfl
@[simp] theorem State.setFlag_rndDraws (s : State) (b : Byte) : (s.setFlag b).rndDraws = s.rndDraws := rfl

/-! ## setFlagThenReg -/
@[simp] theorem State.setFlagThenReg_i (s : State) (f : Byte) (x : RegIx) (b : Byte) : (s.setFlagThenReg f x b).i = s.i := rfl
@[simp] theorem State.setFlagThenReg_pc (s : State) (f : Byte) (x : RegIx) (b : Byte) : (s.setFlagThenReg f x b).pc = s.pc := rfl
@[simp] theorem State.setFlagThenReg_sp (s : State) (f : Byte) (x : RegIx) (b : Byte) : (s.setFlagThenReg f x b).sp = s.sp := rfl
@[simp] theorem State.setFlagThenReg_stack (s : State) (f : Byte) (x : RegIx) (b : Byte) : (s.setFlagThenReg f x b).stack = s.stack := rfl
@[simp] theorem State.setFlagThenReg_dt (s : State) (f : Byte) (x : RegIx) (b : Byte) : (s.setFlagThenReg f x b).dt = s.dt := rfl
@[simp] theorem State.setFlagThenReg_st (s : State) (f : Byte) (x : RegIx) (b : Byte) : (s.setFlagThenReg f x b).st = s.st := rfl
@[simp] theorem State.setFlagThenReg_kwBlocked (s : State) (f : Byte) (x : RegIx) (b : Byte) : (s.setFlagThenReg f x b).kwBlocked = s.kwBlocked := rfl
@[simp] theorem State.setFlagThenReg_kwTarget (s : State) (f : Byte) (x : RegIx) (b : Byte) : (s.setFlagThenReg f x b).kwTarget = s.kwTarget := rfl
@[simp] theorem State.setFlagThenReg_key (s : State) (f : Byte) (x : RegIx) (b : Byte) : (s.setFlagThenReg f x b).key = s.key := rfl
@[simp] theorem State.setFlagThenReg_pix (s : State) (f : Byte) (x : RegIx) (b : Byte) : (s.setFlagThenReg f x b).pix = s.pix := rfl
@[simp] theorem State.setFlagThenReg_mem (s : State) (f : Byte) (x : RegIx) (b : Byte) : (s.setFlagThenReg f x b).mem = s.mem := rfl
@[simp] theorem State.setFlagThenReg_rndInput (s : State) (f : Byte) (x : RegIx) (b : Byte) : (s.setFlagThenReg f x b).rndInput = s.rndInput := rfl
@[simp] theorem State.setFlagThenReg_rndDraws (s : State) (f : Byte) (x : RegIx) (b : Byte) : (s.setFlagThenReg f x b).rndDraws = s.rndDraws := rfl

/-! ## useRandom -/
@[simp] theorem State.useRandom_v (s : State) : (s.useRandom).v = s.v := by unfold State.useRandom; split <;> rfl
@[simp] theorem State.useRandom_i (s : State) : (s.useRandom).i = s.i := by unfold State.useRandom; split <;> rfl
@[simp] theorem State.useRandom_pc (s : State) : (s.useRandom).pc = s.pc := by unfold State.useRandom; split <;> rfl
@[simp] theorem State.useRandom_sp (s : State) : (s.useRandom).sp = s.sp := by unfold State.useRandom; split <;> rfl
@[simp] theorem State.useRandom_stack (s : State) : (s.useRandom).stack = s.stack := by unfold State.useRandom; split <;> rfl
@[simp] theorem State.useRandom_dt (s : State) : (s.useRandom).dt = s.dt := by unfold State.useRandom; split <;> rfl
@[simp] theorem State.useRandom_st (s : State) : (s.useRandom).st = s.st := by unfold State.useRandom; split <;> rfl
@[simp] theorem State.useRandom_kwBlocked (s : State) : (s.useRandom).kwBlocked = s.kwBlocked := by unfold State.useRandom; split <;> rfl
@[simp] theorem State.useRandom_kwTarget (s : State) : (s.useRandom).kwTarget = s.kwTarget := by unfold State.useRandom; split <;> rfl
@[simp] theorem State.useRandom_key (s : State) : (s.useRandom).key = s.key := by unfold State.useRandom; split <;> rfl
@[simp] theorem State.useRandom_pix (s : State) : (s.useRandom).pix = s.pix := by unfold State.useRandom; split <;> rfl
@[simp] theorem State.useRandom_mem (s : State) : (s.useRandom).mem = s.mem := by unfold State.useRandom; split <;> rfl

/-! ## setBytes, by induction on the bytes -/
@[simp] theorem State.setBytes_v (s : State) (base : Nat) (bs : List Byte) : (s.setBytes base bs).v = s.v := by
  induction bs generalizing s base with
  | nil => rfl
  | cons b bs ih => simp [State.setBytes, ih]
@[simp] theorem State.setBytes_i (s : State) (base : Nat) (bs : List Byte) : (s.setBytes base bs).i = s.i := by
  induction bs generalizing s base with
  | nil => rfl
  | cons b bs ih => simp [State.setBytes, ih]
@[simp] theorem State.setBytes_pc (s : State) (base : Nat) (bs : List Byte) : (s.setBytes base bs).pc = s.pc := by
  induction bs generalizing s base with
  | nil => rfl
  | cons b bs ih => simp [State.setBytes, ih]
@[simp] theorem State.setBytes_sp (s : State) (base : Nat) (bs : List Byte) : (s.setBytes base bs).sp = s.sp := by
  induction bs generalizing s base with
  | nil => rfl
  | cons b bs ih => simp [State.setBytes, ih]
@[simp] theorem State.setBytes_stack (s : State) (base : Nat) (bs : List Byte) : (s.setBytes base bs).stack = s.stack := by
  induction bs generalizing s base with
  | nil => rfl
  | cons b bs ih => simp [State.setBytes, ih]
@[simp] theorem State.setBytes_dt (s : State) (base : Nat) (bs : List Byte) : (s.setBytes base bs).dt = s.dt := by
  induction bs generalizing s base with
  | nil => rfl
  | cons b bs ih => simp [State.setBytes, ih]
@[simp] theorem State.setBytes_st (s : State) (base : Nat) (bs : List Byte) : (s.setBytes base bs).st = s.st := by
  induction bs generalizing s base with
  | nil => rfl
  | cons b bs ih => simp [State.setBytes, ih]
@[simp] theorem State.setBytes_kwBlocked (s : State) (base : Nat) (bs : List Byte) : (s.setBytes base bs).kwBlocked = s.kwBlocked := by
  induction bs generalizing s base with
  | nil => rfl
  | cons b bs ih => simp [State.setBytes, ih]
@[simp] theorem State.setBytes_kwTarget (s : State) (base : Nat) (bs : List Byte) : (s.setBytes base bs).kwTarget = s.kwTarget := by
  induction bs generalizing s base with
  | nil => rfl
  | cons b bs ih => simp [State.setBytes, ih]
@[simp] theorem State.setBytes_key (s : State) (base : Nat) (bs : List Byte) : (s.setBytes base bs).key = s.key := by
  induction bs generalizing s base with
  | nil => rfl
  | cons b bs ih => simp [State.setBytes, ih]
@[simp] theorem State.setBytes_pix (s : State) (base : Nat) (bs : List Byte) : (s.setBytes base bs).pix = s.pix := by
  induction bs generalizing s base with
  | nil => rfl
  | cons b bs ih => simp [State.setBytes, ih]
@[simp] theorem State.setBytes_rndInput (s : State) (base : Nat) (bs : List Byte) : (s.setBytes base bs).rndInput = s.rndInput := by
  induction bs generalizing s base with
  | nil => rfl
  | cons b bs ih => simp [State.setBytes, ih]
@[simp] theorem State.setBytes_rndDraws (s : State) (base : Nat) (bs : List Byte) : (s.setBytes base bs).rndDraws = s.rndDraws := by
  induction bs generalizing s base with
  | nil => rfl
  | cons b bs ih => simp [State.setBytes, ih]

/-! ## setRegs, by induction on the bytes -/
@[simp] theorem State.setRegs_i (s : State) (k : Nat) (bs : List Byte) : (s.setRegs k bs).i = s.i := by
  induction bs generalizing s k with
  | nil => rfl
  | cons b bs ih => simp [State.setRegs, ih]
@[simp] theorem State.setRegs_pc (s : State) (k : Nat) (bs : List Byte) : (s.setRegs k bs).pc = s.pc := by
  induction bs generalizing s k with
  | nil => rfl
  | cons b bs ih => simp [State.setRegs, ih]
@[simp] theorem State.setRegs_sp (s : State) (k : Nat) (bs : List Byte) : (s.setRegs k bs).sp = s.sp := by
  induction bs generalizing s k with
  | nil => rfl
  | cons b bs ih => simp [State.setRegs, ih]
@[simp] theorem State.setRegs_stack (s : State) (k : Nat) (bs : List Byte) : (s.setRegs k bs).stack = s.stack := by
  induction bs generalizing s k with
  | nil => rfl
  | cons b bs ih => simp [State.setRegs, ih]
@[simp] theorem State.setRegs_dt (s : State) (k : Nat) (bs : List Byte) : (s.setRegs k bs).dt = s.dt := by
  induction bs generalizing s k with
  | nil => rfl
  | cons b bs ih => simp [State.setRegs, ih]
@[simp] theorem State.setRegs_st (s : State) (k : Nat) (bs : List Byte) : (s.setRegs k bs).st = s.st := by
  induction bs generalizing s k with
  | nil => rfl
  | cons b bs ih => simp [State.setRegs, ih]
@[simp] theorem State.setRegs_kwBlocked (s : State) (k : Nat) (bs : List Byte) : (s.setRegs k bs).kwBlocked = s.kwBlocked := by
  induction bs generalizing s k with
  | nil => rfl
  | cons b bs ih => simp [State.setRegs, ih]
@[simp] theorem State.setRegs_kwTarget (s : State) (k : Nat) (bs : List Byte) : (s.setRegs k bs).kwTarget = s.kwTarget := by
  induction bs generalizing s k with
  | nil => rfl
  | cons b bs ih => simp [State.setRegs, ih]
@[simp] theorem State.setRegs_key (s : State) (k : Nat) (bs : List Byte) : (s.setRegs k bs).key = s.key := by
  induction bs generalizing s k with
  | nil => rfl
  | cons b bs ih => simp [State.setRegs, ih]
@[simp] theorem State.setRegs_pix (s : State) (k : Nat) (bs : List Byte) : (s.setRegs k bs).pix = s.pix := by
  induction bs generalizing s k with
  | nil => rfl
  | cons b bs ih => simp [State.setRegs, ih]
@[simp] theorem State.setRegs_mem (s : State) (k : Nat) (bs : List Byte) : (s.setRegs k bs).mem = s.mem := by
  induction bs generalizing s k with
  | nil => rfl
  | cons b bs ih => simp [State.setRegs, ih]
@[simp] theorem State.setRegs_rndInput (s : State) (k : Nat) (bs : List Byte) : (s.setRegs k bs).rndInput = s.rndInput := by
  induction bs generalizing s k with
  | nil => rfl
  | cons b bs ih => simp [State.setRegs, ih]
@[simp] theorem State.setRegs_rndDraws (s : State) (k : Nat) (bs : List Byte) : (s.setRegs k bs).rndDraws = s.rndDraws := by
  induction bs generalizing s k with
  | nil => rfl
  | cons b bs ih => simp [State.setRegs, ih]

/-! ## The program counter -/

@[simp] theorem State.jumpTo_pc (s : State) (w : Word) : (s.jumpTo w).pc = w := rfl

@[simp] theorem State.advance_pc (s : State) : s.advance.pc = s.pc + 2#16 := rfl

@[simp] theorem State.skipIf_pc (s : State) (c : Bool) : (s.skipIf c).pc = s.pc + if c then 4#16 else 2#16 := by
  cases c <;> rfl

@[simp] theorem State.nextPc_eq (s : State) : s.nextPc = s.pc + 2#16 := rfl

/-! ## Accessors after an update of another field -/

@[simp] theorem State.reg_jumpTo (s : State) (w : Word) (x : RegIx) : (s.jumpTo w).reg x = s.reg x := rfl
@[simp] theorem State.reg_advance (s : State) (x : RegIx) : (s.advance).reg x = s.reg x := rfl
@[simp] theorem State.reg_skipIf (s : State) (c : Bool) (x : RegIx) : (s.skipIf c).reg x = s.reg x := by simp [State.reg]
@[simp] theorem State.reg_setByte (s : State) (a : Nat) (b : Byte) (x : RegIx) : (s.setByte a b).reg x = s.reg x := rfl
@[simp] theorem State.reg_push (s : State) (w : Word) (x : RegIx) : (s.push w).reg x = s.reg x := rfl
@[simp] theorem State.reg_pop (s : State) (x : RegIx) : (s.pop).reg x = s.reg x := rfl
@[simp] theorem State.reg_useRandom (s : State) (x : RegIx) : (s.useRandom).reg x = s.reg x := by simp [State.reg]
@[simp] theorem State.reg_setBytes (s : State) (base : Nat) (bs : List Byte) (x : RegIx) : (s.setBytes base bs).reg x = s.reg x := by simp [State.reg]
@[simp] theorem State.reg_with_i (s : State) (new : Word) (x : RegIx) : ({ s with i := new } : State).reg x = s.reg x := rfl
@[simp] theorem State.reg_with_dt (s : State) (new : Byte) (x : RegIx) : ({ s with dt := new } : State).reg x = s.reg x := rfl
@[simp] theorem State.reg_with_st (s : State) (new : Byte) (x : RegIx) : ({ s with st := new } : State).reg x = s.reg x := rfl
@[simp] theorem State.reg_with_key (s : State) (new : Option Digit) (x : RegIx) : ({ s with key := new } : State).reg x = s.reg x := rfl
@[simp] theorem State.reg_with_kwBlocked (s : State) (new : Bool) (x : RegIx) : ({ s with kwBlocked := new } : State).reg x = s.reg x := rfl
@[simp] theorem State.reg_with_keyWait (s : State) (b : Bool) (r : RegIx) (x : RegIx) :
    ({ s with kwBlocked := b, kwTarget := r } : State).reg x = s.reg x := rfl
@[simp] theorem State.reg_with_kwTarget (s : State) (new : RegIx) (x : RegIx) : ({ s with kwTarget := new } : State).reg x = s.reg x := rfl
@[simp] theorem State.reg_with_pix (s : State) (new : Pix) (x : RegIx) : ({ s with pix := new } : State).reg x = s.reg x := rfl
@[simp] theorem State.reg_with_rndInput (s : State) (new : List Byte) (x : RegIx) : ({ s with rndInput := new } : State).reg x = s.reg x := rfl
@[simp] theorem State.reg_with_sp (s : State) (new : Byte) (x : RegIx) : ({ s with sp := new } : State).reg x = s.reg x := rfl
@[simp] theorem State.reg_with_pc (s : State) (new : Word) (x : RegIx) : ({ s with pc := new } : State).reg x = s.reg x := rfl

@[simp] theorem State.byteAt_setReg (s : State) (x : RegIx) (b : Byte) (a : Nat) : (s.setReg x b).byteAt a = s.byteAt a := rfl
@[simp] theorem State.byteAt_jumpTo (s : State) (w : Word) (a : Nat) : (s.jumpTo w).byteAt a = s.byteAt a := rfl
@[simp] theorem State.byteAt_advance (s : State) (a : Nat) : (s.advance).byteAt a = s.byteAt a := rfl
@[simp] theorem State.byteAt_skipIf (s : State) (c : Bool) (a : Nat) : (s.skipIf c).byteAt a = s.byteAt a := by simp [State.byteAt]
@[simp] theorem State.byteAt_push (s : State) (w : Word) (a : Nat) : (s.push w).byteAt a = s.byteAt a := rfl
@[simp] theorem State.byteAt_pop (s : State) (a : Nat) : (s.pop).byteAt a = s.byteAt a := rfl
@[simp] theorem State.byteAt_setFlag (s : State) (b : Byte) (a : Nat) : (s.setFlag b).byteAt a = s.byteAt a := rfl
@[simp] theorem State.byteAt_setFlagThenReg (s : State) (f : Byte) (x : RegIx) (b : Byte) (a : Nat) : (s.setFlagThenReg f x b).byteAt a = s.byteAt a := rfl
@[simp] theorem State.byteAt_useRandom (s : State) (a : Nat) : (s.useRandom).byteAt a = s.byteAt a := by simp [State.byteAt]
@[simp] theorem State.byteAt_setRegs (s : State) (k : Nat) (bs : List Byte) (a : Nat) : (s.setRegs k bs).byteAt a = s.byteAt a := by simp [State.byteAt]
@[simp] theorem State.byteAt_with_i (s : State) (new : Word) (a : Nat) : ({ s with i := new } : State).byteAt a = s.byteAt a := rfl
@[simp] theorem State.byteAt_with_dt (s : State) (new : Byte) (a : Nat) : ({ s with dt := new } : State).byteAt a = s.byteAt a := rfl
@[simp] theorem State.byteAt_with_st (s : State) (new : Byte) (a : Nat) : ({ s with st := new } : State).byteAt a = s.byteAt a := rfl
@[simp] theorem State.byteAt_with_key (s : State) (new : Option Digit) (a : Nat) : ({ s with key := new } : State).byteAt a = s.byteAt a := rfl
@[simp] theorem State.byteAt_with_kwBlocked (s : State) (new : Bool) (a : Nat) : ({ s with kwBlocked := new } : State).byteAt a = s.byteAt a := rfl
@[simp] theorem State.byteAt_with_keyWait (s : State) (b : Bool) (r : RegIx) (a : Nat) :
    ({ s with kwBlocked := b, kwTarget := r } : State).byteAt a = s.byteAt a := rfl
@[simp] theorem State.byteAt_with_kwTarget (s : State) (new : RegIx) (a : Nat) : ({ s with kwTarget := new } : State).byteAt a = s.byteAt a := rfl
@[simp] theorem State.byteAt_with_pix (s : State) (new : Pix) (a : Nat) : ({ s with pix := new } : State).byteAt a = s.byteAt a := rfl
@[simp] theorem State.byteAt_with_rndInput (s : State) (new : List Byte) (a : Nat) : ({ s with rndInput := new } : State).byteAt a = s.byteAt a := rfl
@[simp] theorem State.byteAt_with_sp (s : State) (new : Byte) (a : Nat) : ({ s with sp := new } : State).byteAt a = s.byteAt a := rfl
@[simp] theorem State.byteAt_with_pc (s : State) (new : Word) (a : Nat) : ({ s with pc := new } : State).byteAt a = s.byteAt a := rfl

@[simp] theorem State.slot_setReg (s : State) (x : RegIx) (b : Byte) (j : Nat) : (s.setReg x b).slot j = s.slot j := rfl
@[simp] theorem State.slot_jumpTo (s : State) (w : Word) (j : Nat) : (s.jumpTo w).slot j = s.slot j := rfl
@[simp] theorem State.slot_advance (s : State) (j : Nat) : (s.advance).slot j = s.slot j := rfl
@[simp] theorem State.slot_skipIf (s : State) (c : Bool) (j : Nat) : (s.skipIf c).slot j = s.slot j := by simp [State.slot]
@[simp] theorem State.slot_setByte (s : State) (a : Nat) (b : Byte) (j : Nat) : (s.setByte a b).slot j = s.slot j := rfl
@[simp] theorem State.slot_pop (s : State) (j : Nat) : (s.pop).slot j = s.slot j := rfl
@[simp] theorem State.slot_setFlag (s : State) (b : Byte) (j : Nat) : (s.setFlag b).slot j = s.slot j := rfl
@[simp] theorem State.slot_setFlagThenReg (s : State) (f : Byte) (x : RegIx) (b : Byte) (j : Nat) : (s.setFlagThenReg f x b).slot j = s.slot j := rfl
@[simp] theorem State.slot_useRandom (s : State) (j : Nat) : (s.useRandom).slot j = s.slot j := by simp [State.slot]
@[simp] theorem State.slot_setBytes (s : State) (base : Nat) (bs : List Byte) (j : Nat) : (s.setBytes base bs).slot j = s.slot j := by simp [State.slot]
@[simp] theorem State.slot_setRegs (s : State) (k : Nat) (bs : List Byte) (j : Nat) : (s.setRegs k bs).slot j = s.slot j := by simp [State.slot]
@[simp] theorem State.slot_with_i (s : State) (new : Word) (j : Nat) : ({ s with i := new } : State).slot j = s.slot j := rfl
@[simp] theorem State.slot_with_dt (s : State) (new : Byte) (j : Nat) : ({ s with dt := new } : State).slot j = s.slot j := rfl
@[simp] theorem State.slot_with_st (s : State) (new : Byte) (j : Nat) : ({ s with st := new } : State).slot j = s.slot j := rfl
@[simp] theorem State.slot_with_key (s : State) (new : Option Digit) (j : Nat) : ({ s with key := new } : State).slot j = s.slot j := rfl
@[simp] theorem State.slot_with_kwBlocked (s : State) (new : Bool) (j : Nat) : ({ s with kwBlocked := new } : State).slot j = s.slot j := rfl
@[simp] theorem State.slot_with_keyWait (s : State) (b : Bool) (r : RegIx) (j : Nat) :
    ({ s with kwBlocked := b, kwTarget := r } : State).slot j = s.slot j := rfl
@[simp] theorem State.slot_with_kwTarget (s : State) (new : RegIx) (j : Nat) : ({ s with kwTarget := new } : State).slot j = s.slot j := rfl
@[simp] theorem State.slot_with_pix (s : State) (new : Pix) (j : Nat) : ({ s with pix := new } : State).slot j = s.slot j := rfl
@[simp] theorem State.slot_with_rndInput (s : State) (new : List Byte) (j : Nat) : ({ s with rndInput := new } : State).slot j = s.slot j := rfl
@[simp] theorem State.slot_with_sp (s : State) (new : Byte) (j : Nat) : ({ s with sp := new } : State).slot j = s.slot j := rfl
@[simp] theorem State.slot_with_pc (s : State) (new : Word) (j : Nat) : ({ s with pc := new } : State).slot j = s.slot j := rfl

/-! ## Registers -/

/-- A register read after a register write. -/
@[simp] theorem State.reg_setReg (s : State) (x y : RegIx) (b : Byte) :
    (s.setReg x b).reg y = if y = x then b else s.reg y := by
  simp [State.reg, State.setReg, Vector.getElem_set, BitVec.toNat_inj, eq_comm]

/-- A register read after the flag write. -/
@[simp] theorem State.reg_setFlag (s : State) (f : Byte) (y : RegIx) :
    (s.setFlag f).reg y = if y = 15#4 then f else s.reg y := by
  simp [State.setFlag]

/-- A register read after the two writes of R111: the result wins over the flag. -/
@[simp] theorem State.reg_setFlagThenReg (s : State) (f : Byte) (x y : RegIx) (b : Byte) :
    (s.setFlagThenReg f x b).reg y = if y = x then b else if y = 15#4 then f else s.reg y := by
  simp [State.setFlagThenReg]

/-- Two states with the same registers have the same register vector. -/
theorem State.v_ext {s t : State} (h : ∀ x, t.reg x = s.reg x) : t.v = s.v := by
  apply Vector.ext
  intro k hk
  have := h (BitVec.ofNat 4 k)
  simpa [State.reg, Nat.mod_eq_of_lt (show k < 16 from hk)] using this

/-! ## Stack -/

/-- A stack entry read after a push. -/
theorem State.slot_push (s : State) (w : Word) (j : Nat) (h : s.sp.toNat < 16) :
    (s.push w).slot j = if j = s.sp.toNat then some w else s.slot j := by
  simp only [State.slot, State.push, Vector.getElem?_setIfInBounds, eq_comm]
  split <;> simp_all

@[simp] theorem State.push_sp (s : State) (w : Word) : (s.push w).sp = s.sp + 1#8 := rfl

@[simp] theorem State.pop_sp (s : State) : s.pop.sp = s.sp - 1#8 := rfl

/-! ## The key-resolving step, `Tick` and `KeyUpdate` -/

@[simp] theorem resolveKey_i (s : State) (k : Digit) : (resolveKey k s).i = s.i := rfl
@[simp] theorem resolveKey_pc (s : State) (k : Digit) : (resolveKey k s).pc = s.pc := rfl
@[simp] theorem resolveKey_sp (s : State) (k : Digit) : (resolveKey k s).sp = s.sp := rfl
@[simp] theorem resolveKey_stack (s : State) (k : Digit) : (resolveKey k s).stack = s.stack := rfl
@[simp] theorem resolveKey_dt (s : State) (k : Digit) : (resolveKey k s).dt = s.dt := rfl
@[simp] theorem resolveKey_st (s : State) (k : Digit) : (resolveKey k s).st = s.st := rfl
@[simp] theorem resolveKey_kwTarget (s : State) (k : Digit) : (resolveKey k s).kwTarget = s.kwTarget := rfl
@[simp] theorem resolveKey_key (s : State) (k : Digit) : (resolveKey k s).key = s.key := rfl
@[simp] theorem resolveKey_pix (s : State) (k : Digit) : (resolveKey k s).pix = s.pix := rfl
@[simp] theorem resolveKey_mem (s : State) (k : Digit) : (resolveKey k s).mem = s.mem := rfl
@[simp] theorem resolveKey_rndInput (s : State) (k : Digit) : (resolveKey k s).rndInput = s.rndInput := rfl
@[simp] theorem resolveKey_rndDraws (s : State) (k : Digit) : (resolveKey k s).rndDraws = s.rndDraws := rfl
@[simp] theorem resolveKey_byteAt (s : State) (k : Digit) (a : Nat) : (resolveKey k s).byteAt a = s.byteAt a := rfl
@[simp] theorem resolveKey_slot (s : State) (k : Digit) (j : Nat) : (resolveKey k s).slot j = s.slot j := rfl

@[simp] theorem tick_v (s : State) : (tick s).v = s.v := rfl
@[simp] theorem tick_i (s : State) : (tick s).i = s.i := rfl
@[simp] theorem tick_pc (s : State) : (tick s).pc = s.pc := rfl
@[simp] theorem tick_sp (s : State) : (tick s).sp = s.sp := rfl
@[simp] theorem tick_stack (s : State) : (tick s).stack = s.stack := rfl
@[simp] theorem tick_kwBlocked (s : State) : (tick s).kwBlocked = s.kwBlocked := rfl
@[simp] theorem tick_kwTarget (s : State) : (tick s).kwTarget = s.kwTarget := rfl
@[simp] theorem tick_key (s : State) : (tick s).key = s.key := rfl
@[simp] theorem tick_pix (s : State) : (tick s).pix = s.pix := rfl
@[simp] theorem tick_mem (s : State) : (tick s).mem = s.mem := rfl
@[simp] theorem tick_rndInput (s : State) : (tick s).rndInput = s.rndInput := rfl
@[simp] theorem tick_rndDraws (s : State) : (tick s).rndDraws = s.rndDraws := rfl
@[simp] theorem tick_reg (s : State) (x : RegIx) : (tick s).reg x = s.reg x := rfl
@[simp] theorem tick_byteAt (s : State) (a : Nat) : (tick s).byteAt a = s.byteAt a := rfl
@[simp] theorem tick_slot (s : State) (j : Nat) : (tick s).slot j = s.slot j := rfl

@[simp] theorem keyUpdate_v (s : State) (k : Option Digit) : (keyUpdate k s).v = s.v := rfl
@[simp] theorem keyUpdate_i (s : State) (k : Option Digit) : (keyUpdate k s).i = s.i := rfl
@[simp] theorem keyUpdate_pc (s : State) (k : Option Digit) : (keyUpdate k s).pc = s.pc := rfl
@[simp] theorem keyUpdate_sp (s : State) (k : Option Digit) : (keyUpdate k s).sp = s.sp := rfl
@[simp] theorem keyUpdate_stack (s : State) (k : Option Digit) : (keyUpdate k s).stack = s.stack := rfl
@[simp] theorem keyUpdate_dt (s : State) (k : Option Digit) : (keyUpdate k s).dt = s.dt := rfl
@[simp] theorem keyUpdate_st (s : State) (k : Option Digit) : (keyUpdate k s).st = s.st := rfl
@[simp] theorem keyUpdate_kwBlocked (s : State) (k : Option Digit) : (keyUpdate k s).kwBlocked = s.kwBlocked := rfl
@[simp] theorem keyUpdate_kwTarget (s : State) (k : Option Digit) : (keyUpdate k s).kwTarget = s.kwTarget := rfl
@[simp] theorem keyUpdate_pix (s : State) (k : Option Digit) : (keyUpdate k s).pix = s.pix := rfl
@[simp] theorem keyUpdate_mem (s : State) (k : Option Digit) : (keyUpdate k s).mem = s.mem := rfl
@[simp] theorem keyUpdate_rndInput (s : State) (k : Option Digit) : (keyUpdate k s).rndInput = s.rndInput := rfl
@[simp] theorem keyUpdate_rndDraws (s : State) (k : Option Digit) : (keyUpdate k s).rndDraws = s.rndDraws := rfl
@[simp] theorem keyUpdate_reg (s : State) (k : Option Digit) (x : RegIx) : (keyUpdate k s).reg x = s.reg x := rfl
@[simp] theorem keyUpdate_byteAt (s : State) (k : Option Digit) (a : Nat) : (keyUpdate k s).byteAt a = s.byteAt a := rfl
@[simp] theorem keyUpdate_slot (s : State) (k : Option Digit) (j : Nat) : (keyUpdate k s).slot j = s.slot j := rfl

@[simp] theorem resolveKey_kwBlocked (s : State) (k : Digit) : (resolveKey k s).kwBlocked = false := rfl

@[simp] theorem resolveKey_reg (s : State) (k : Digit) (x : RegIx) :
    (resolveKey k s).reg x = if x = s.kwTarget then zextDigit k else s.reg x := State.reg_setReg s s.kwTarget x (zextDigit k)

@[simp] theorem keyUpdate_key (s : State) (k : Option Digit) : (keyUpdate k s).key = k := rfl

/-- A timer under `Tick` loses one and stops at 0 (R149). -/
theorem countDown_toNat (t : Byte) : (countDown t).toNat = t.toNat - 1 := by
  unfold countDown
  split
  · bv_omega
  · omega

/-- The halt condition (R82). -/
theorem State.halted_iff (s : State) : s.halted = true ↔ 4094 < s.pc.toNat := by
  unfold State.halted
  exact decide_eq_true_iff

/-! ## Raising a fault -/

@[simp] theorem stateAfter_next (s t : State) : stateAfter s (.next t) = t := rfl

@[simp] theorem stateAfter_raise (s : State) (f : Fault) : stateAfter s (raise f) = s := rfl

end Sys2Proof.Machine
end

