-- ==== Sys2Proof/Laws/Memory.lean ====
section
/-! SUPPORT. Memory: read after write, the canonical form kept by every operation, blocks of bytes, and the range check. -/

namespace Sys2Proof.Machine

/-! ## One byte -/

theorem Memory.read_put (m : Memory) (a k : Nat) (b : Byte) (h : m.Pairwise (fun c d => c.1 < d.1)) :
    (m.put a b).read k = if k = a then b else m.read k := by
  induction m with
  | nil => simp [Memory.put, Memory.read, eq_comm]
  | cons c m ih =>
    obtain ⟨c, d⟩ := c
    have ih := ih (List.pairwise_cons.1 h).2
    simp only [Memory.put]
    split
    · simp only [Memory.read, eq_comm]
    · split
      · subst_vars; simp only [Memory.read, eq_comm]; split <;> simp_all
      · simp only [Memory.read, ih]
        split <;> split <;> simp_all

theorem Memory.read_of_lt_all (m : Memory) (k : Nat) (h : ∀ c ∈ m, k < c.1) : m.read k = baseByte k := by
  induction m with
  | nil => rfl
  | cons c m ih =>
    have := h c (by simp)
    simp only [Memory.read]
    rw [if_neg (by omega), ih fun c hc => h c (by simp [hc])]

theorem Memory.read_drop (m : Memory) (a k : Nat) (h : m.Pairwise (fun c d => c.1 < d.1)) :
    (m.drop a).read k = if k = a then baseByte a else m.read k := by
  induction m with
  | nil => simp only [Memory.drop, Memory.read]; split <;> simp_all
  | cons c m ih =>
    obtain ⟨c, d⟩ := c
    obtain ⟨hc, hm⟩ := List.pairwise_cons.1 h
    have ih := ih hm
    simp only [Memory.drop]
    split
    · subst_vars
      have := Memory.read_of_lt_all m c fun e he => hc e he
      simp only [Memory.read]
      split <;> simp_all [eq_comm]
    · simp only [Memory.read, ih]
      split <;> split <;> simp_all

/-- A byte read after a byte written (20_memory.md R43, R44). -/
theorem Memory.read_write (m : Memory) (a k : Nat) (b : Byte) (h : m.wf) :
    (m.write a b).read k = if k = a then b else m.read k := by
  unfold Memory.write
  split
  · rw [Memory.read_drop m a k h.1]; simp_all
  · exact Memory.read_put m a k b h.1

theorem Memory.mem_put (m : Memory) (a : Nat) (b : Byte) (c : Host.Cell) (h : c ∈ m.put a b) : c = (a, b) ∨ c ∈ m := by
  induction m with
  | nil => simpa [Memory.put] using h
  | cons d m ih =>
    obtain ⟨d, e⟩ := d
    simp only [Memory.put] at h
    split at h
    · simpa using h
    · split at h
      · simp only [List.mem_cons] at h ⊢; tauto
      · simp only [List.mem_cons] at h ⊢; tauto

theorem Memory.mem_drop (m : Memory) (a : Nat) (c : Host.Cell) (h : c ∈ m.drop a) : c ∈ m := by
  induction m with
  | nil => exact h
  | cons d m ih =>
    obtain ⟨d, e⟩ := d
    simp only [Memory.drop] at h
    split at h
    · exact List.mem_cons_of_mem _ h
    · simp only [List.mem_cons] at h ⊢; tauto

/-- A write of a byte that exists keeps the canonical form. -/
theorem Memory.wf_write (m : Memory) (a : Nat) (b : Byte) (h : m.wf) (ha : a < 4096) : (m.write a b).wf := by
  obtain ⟨hs, hv⟩ := h
  unfold Memory.write
  split
  · refine ⟨?_, fun c hc => hv c (Memory.mem_drop m a c hc)⟩
    clear hv
    induction m with
    | nil => exact hs
    | cons d m ih =>
      obtain ⟨d, e⟩ := d
      obtain ⟨hd, hm⟩ := List.pairwise_cons.1 hs
      simp only [Memory.drop]
      split
      · exact hm
      · exact List.pairwise_cons.2 ⟨fun c hc => hd c (Memory.mem_drop m a c hc), ih hm⟩
  · rename_i hb
    refine ⟨?_, fun c hc => ?_⟩
    · clear hv
      induction m with
      | nil => simp [Memory.put]
      | cons d m ih =>
        obtain ⟨d, e⟩ := d
        obtain ⟨hd, hm⟩ := List.pairwise_cons.1 hs
        simp only [Memory.put]
        split
        · refine List.pairwise_cons.2 ⟨fun c hc => ?_, hs⟩
          rcases List.mem_cons.1 hc with rfl | hc
          · assumption
          · have := hd c hc; simp only at *; omega
        · split
          · subst_vars; exact List.pairwise_cons.2 ⟨hd, hm⟩
          · refine List.pairwise_cons.2 ⟨fun c hc => ?_, ih hm⟩
            rcases Memory.mem_put m a b c hc with rfl | hc
            · simp only; omega
            · exact hd c hc
    · rcases Memory.mem_put m a b c hc with rfl | hc
      · exact ⟨ha, hb⟩
      · exact hv c hc

/-- Two memories in canonical form that read the same are the same. -/
theorem Memory.ext (m n : Memory) (hm : m.wf) (hn : n.wf) (h : ∀ a, m.read a = n.read a) : m = n := by
  induction m generalizing n with
  | nil =>
    cases n with
    | nil => rfl
    | cons c n =>
      have := h c.1
      simp only [Memory.read] at this
      exact absurd this.symm (hn.2 c (by simp)).2
  | cons c m ih =>
    obtain ⟨c, d⟩ := c
    obtain ⟨hc, hm'⟩ := List.pairwise_cons.1 hm.1
    cases n with
    | nil =>
      have := h c
      simp only [Memory.read, if_true] at this
      exact absurd this (hm.2 (c, d) (by simp)).2
    | cons e n =>
      obtain ⟨e, f⟩ := e
      obtain ⟨he, hn'⟩ := List.pairwise_cons.1 hn.1
      have hce : c = e := by
        rcases Nat.lt_trichotomy c e with hlt | heq | hgt
        · have := h c
          simp only [Memory.read, if_true] at this
          rw [if_neg (by omega), Memory.read_of_lt_all n c fun x hx => by have := he x hx; simp only at this; omega] at this
          exact absurd this (hm.2 (c, d) (by simp)).2
        · exact heq
        · have := h e
          simp only [Memory.read, if_true] at this
          rw [if_neg (by omega), Memory.read_of_lt_all m e fun x hx => by have := hc x hx; simp only at this; omega] at this
          exact absurd this.symm (hn.2 (e, f) (by simp)).2
      subst hce
      have hdf : d = f := by simpa [Memory.read] using h c
      subst hdf
      congr 1
      refine ih n ⟨hm', fun x hx => hm.2 x (by simp [hx])⟩ ⟨hn', fun x hx => hn.2 x (by simp [hx])⟩ fun a => ?_
      have := h a
      simp only [Memory.read] at this
      by_cases hac : c = a
      · subst hac
        rw [Memory.read_of_lt_all m c fun x hx => hc x hx, Memory.read_of_lt_all n c fun x hx => he x hx]
      · simpa [hac] using this

/-! ## The state's memory -/

theorem State.byteAt_setByte (s : State) (a k : Nat) (b : Byte) (h : s.mem.wf) :
    (s.setByte a b).byteAt k = if k = a then b else s.byteAt k := Memory.read_write s.mem a k b h

theorem State.wf_setByte (s : State) (a : Nat) (b : Byte) (h : s.mem.wf) (ha : a < 4096) : (s.setByte a b).mem.wf :=
  Memory.wf_write s.mem a b h ha

/-- A block of bytes written in range keeps the canonical form. -/
theorem State.wf_setBytes (s : State) (base : Nat) (bs : List Byte) (h : s.mem.wf) (hr : base + bs.length ≤ 4096) :
    (s.setBytes base bs).mem.wf := by
  induction bs generalizing s base with
  | nil => exact h
  | cons b bs ih =>
    simp only [List.length_cons] at hr
    exact ih (s.setByte base b) (base + 1) (s.wf_setByte base b h (by omega)) (by omega)

/-- A byte read after a block of bytes is written in range: the block's byte inside, the old byte outside. -/
theorem State.byteAt_setBytes (s : State) (base : Nat) (bs : List Byte) (k : Nat) (h : s.mem.wf)
    (hr : base + bs.length ≤ 4096) :
    (s.setBytes base bs).byteAt k = if base ≤ k then (bs[k - base]?).getD (s.byteAt k) else s.byteAt k := by
  induction bs generalizing s base with
  | nil => simp [State.setBytes]
  | cons b bs ih =>
    simp only [List.length_cons] at hr
    rw [State.setBytes, ih (s.setByte base b) (base + 1) (s.wf_setByte base b h (by omega)) (by omega),
      s.byteAt_setByte base k b h]
    rcases Nat.lt_trichotomy k base with hlt | heq | hgt
    · rw [if_neg (by omega), if_neg (by omega), if_neg (by omega)]
    · subst heq; simp
    · have hk : k - base = (k - (base + 1)) + 1 := by omega
      simp [show base + 1 ≤ k by omega, show base ≤ k by omega, show k ≠ base by omega, hk]

@[simp] theorem State.length_bytesAt (s : State) (base n : Nat) : (s.bytesAt base n).length = n := by
  simp [State.bytesAt]

theorem State.getElem?_bytesAt (s : State) (base n k : Nat) :
    (s.bytesAt base n)[k]? = if k < n then some (s.byteAt (base + k)) else none := by
  unfold State.bytesAt
  split <;> simp_all

/-! ## Register blocks -/

@[simp] theorem State.length_regBlock (s : State) (x : RegIx) : (s.regBlock x).length = blockSize x := by
  simp [State.regBlock, blockSize]

theorem State.getElem?_regBlock (s : State) (x : RegIx) (k : Nat) :
    (s.regBlock x)[k]? = if k ≤ x.toNat then some (s.reg (regIx k)) else none := by
  unfold State.regBlock
  split
  · simp [List.getElem?_range (show k < x.toNat + 1 by omega)]
  · simp; omega

theorem regIx_toNat (k : Nat) (h : k < 16) : (regIx k).toNat = k := by
  simp [regIx, Nat.mod_eq_of_lt h]

@[simp] theorem toNat_regIx (x : RegIx) : regIx x.toNat = x := by
  simp [regIx]

/-- A register read after a block of registers is written from `V[k]` up. -/
theorem State.reg_setRegs (s : State) (k : Nat) (bs : List Byte) (y : RegIx) (hr : k + bs.length ≤ 16) :
    (s.setRegs k bs).reg y = if k ≤ y.toNat then (bs[y.toNat - k]?).getD (s.reg y) else s.reg y := by
  induction bs generalizing s k with
  | nil => simp [State.setRegs]
  | cons b bs ih =>
    simp only [List.length_cons] at hr
    rw [State.setRegs, ih (s.setReg (regIx k) b) (k + 1) (by omega), State.reg_setReg]
    have hk : y = regIx k ↔ y.toNat = k := by
      constructor
      · rintro rfl; exact regIx_toNat k (by omega)
      · rintro rfl; simp
    rcases Nat.lt_trichotomy y.toNat k with hlt | heq | hgt
    · simp [hk, show ¬ k + 1 ≤ y.toNat by omega, show ¬ k ≤ y.toNat by omega, show y.toNat ≠ k by omega]
    · simp [hk, heq]
    · have hs : y.toNat - k = (y.toNat - (k + 1)) + 1 := by omega
      simp [hk, show k + 1 ≤ y.toNat by omega, show k ≤ y.toNat by omega, show y.toNat ≠ k by omega, hs]

/-! ## The range check (R162) -/

theorem rangeFault_cases (base n : Nat) :
    ((∀ k < n, base + k < 4096) ∧ rangeFault base n = none) ∨
    (∃ k < n, 4096 ≤ base + k ∧ (∀ j < k, base + j < 4096) ∧ rangeFault base n = some (.memOutOfRange (base + k))) := by
  unfold rangeFault
  cases h : (List.range n).find? fun k => decide (params.memSize ≤ base + k) with
  | none =>
    refine .inl ⟨fun k hk => ?_, by simp⟩
    have := of_decide_eq_false (Bool.eq_false_iff.2 (List.find?_eq_none.1 h k (List.mem_range.2 hk)))
    simpa using this
  | some k =>
    rw [List.find?_range_eq_some] at h
    obtain ⟨h1, h2, h3⟩ := h
    refine .inr ⟨k, List.mem_range.1 h2, by simpa using of_decide_eq_true h1, fun j hj => ?_, by simp⟩
    have := of_decide_eq_false (by simpa only [Bool.not_eq_true'] using h3 j hj)
    simpa using this

/-- The check passes exactly when the access is empty or ends inside memory. -/
theorem rangeFault_eq_none (base n : Nat) : rangeFault base n = none ↔ n = 0 ∨ base + n ≤ 4096 := by
  rcases rangeFault_cases base n with ⟨h, e⟩ | ⟨k, hk, h, -, e⟩
  · refine ⟨fun _ => ?_, fun _ => e⟩
    by_cases hn : n = 0
    · exact .inl hn
    · have := h (n - 1) (by omega); omega
  · rw [e]; simp; omega

/-- The fault carries the lowest address out of range: `base` when it is out of range itself, else 4096. -/
theorem rangeFault_eq_some (base n : Nat) (f : Fault) :
    rangeFault base n = some f ↔ n ≠ 0 ∧ 4096 < base + n ∧ f = .memOutOfRange (max base 4096) := by
  rcases rangeFault_cases base n with ⟨h, e⟩ | ⟨k, hk, h, hj, e⟩
  · rw [e]
    refine ⟨fun h => by simp at h, fun ⟨hn, hr, _⟩ => ?_⟩
    have := h (n - 1) (by omega); omega
  · have hm : base + k = max base 4096 := by
      rcases Nat.eq_zero_or_pos k with rfl | hpos
      · omega
      · have := hj (k - 1) (by omega); omega
    rw [e, hm]
    exact ⟨fun h => ⟨by omega, by omega, (Option.some.inj h).symm⟩, fun ⟨_, _, h⟩ => by rw [h]⟩

/-- Everything a memory instruction can answer: its effect, or the fault of the lowest address out of range. -/
theorem withRange_cases (base n : Nat) (effect : State) :
    ((n = 0 ∨ base + n ≤ 4096) ∧ withRange base n effect = .next effect) ∨
    (n ≠ 0 ∧ 4096 < base + n ∧ withRange base n effect = .fault (.memOutOfRange (max base 4096))) := by
  unfold withRange
  cases h : rangeFault base n with
  | none => exact .inl ⟨(rangeFault_eq_none base n).1 h, rfl⟩
  | some f =>
    obtain ⟨h1, h2, rfl⟩ := (rangeFault_eq_some base n f).1 h
    exact .inr ⟨h1, h2, rfl⟩

end Sys2Proof.Machine
end

