-- ==== Sys2Proof/Laws/Display.lean ====
section
/-! SUPPORT. The pixel buffer: a byte read after a byte written, and what the XOR of a byte, of a sprite row and of a sprite does, pixel by
pixel (43_display.md R134), with the collision it reports. -/

namespace Sys2Proof.Machine

/-- A pixel byte read after a pixel byte written: the coordinates are taken modulo 32 and 8. -/
theorem Pix.byte_setByte (p : Pix) (row col r c : Nat) (b : Byte) :
    (p.setByte row col b).byte r c = if r % 32 = row % 32 ∧ c % 8 = col % 8 then b else p.byte r c := by
  simp only [Pix.byte, Pix.setByte, Vector.getElem_set]
  by_cases hr : row % 32 = r % 32
  · by_cases hc : col % 8 = c % 8
    · simp [hr, hc]
    · simp [hr, hc, Ne.symm hc]
  · simp [hr, Ne.symm hr]

/-- Every byte of a filled pixel buffer is the fill byte. -/
@[simp] theorem Pix.byte_fill (b : Byte) (row col : Nat) : (Pix.fill b).byte row col = b := by
  simp [Pix.byte, Pix.fill]

/-- Two pixel buffers with the same bytes are the same. -/
theorem Pix.ext {p q : Pix} (h : ∀ row col, p.byte row col = q.byte row col) : p = q := by
  apply Vector.ext
  intro r hr
  apply Vector.ext
  intro c hc
  have := h r c
  simpa [Pix.byte, Nat.mod_eq_of_lt hr, Nat.mod_eq_of_lt hc] using this

/-- The bytes after one XOR. -/
theorem Pix.byte_xorByte (p : Pix) (row col r c : Nat) (b : Byte) :
    (p.xorByte row col b).1.byte r c =
      if r % 32 = row % 32 ∧ c % 8 = col % 8 then p.byte r c ^^^ b else p.byte r c := by
  simp only [Pix.xorByte, Pix.byte_setByte]
  split
  · rename_i h; simp [Pix.byte, h.1, h.2]
  · rfl

/-! ## Pixel by pixel -/

/-- The pixel after one byte XORed. -/
theorem Pix.pixel_xorByte (p : Pix) (row col px py : Nat) (b : Byte) (hr : row < 32) (hc : col < 8) (hx : px < 64) (hy : py < 32) :
    (p.xorByte row col b).1.pixel px py =
      (p.pixel px py ^^ (decide (py = row ∧ px / 8 = col) && b.getLsbD (7 - px % 8))) := by
  simp only [Pix.pixel, pixelBit, Pix.byte_xorByte, params_pixelMsbLeft, if_true, Nat.mod_eq_of_lt hr, Nat.mod_eq_of_lt hc,
    Nat.mod_eq_of_lt hy, Nat.mod_eq_of_lt (show px / 8 < 8 by omega)]
  split <;> simp [*]

/-- The column of the sprite that lies on screen column `px`, when the sprite starts at column `x0`. -/
def spriteColumn (x0 px : Nat) : Nat := (px + 64 - x0) % 64

/-- Whether a sprite row at column `x0` has a 1-bit on screen column `px`. -/
def rowBit (x0 : Nat) (b : Byte) (px : Nat) : Bool := spriteColumn x0 px < 8 && b.getLsbD (7 - spriteColumn x0 px)

theorem rowBit_left (x0 px : Nat) (b : Byte) (h0 : x0 < 64) (hx : px < 64) (h : px / 8 = x0 / 8) :
    rowBit x0 b px = (b >>> (x0 % 8)).getLsbD (7 - px % 8) := by
  by_cases h1 : x0 % 8 ≤ px % 8
  · have hd : spriteColumn x0 px = px % 8 - x0 % 8 := by simp only [spriteColumn]; omega
    have hlt : px % 8 - x0 % 8 < 8 := by omega
    simp only [rowBit, hd, BitVec.getLsbD_ushiftRight, hlt, decide_true, Bool.true_and]
    rw [show 7 - (px % 8 - x0 % 8) = x0 % 8 + (7 - px % 8) by omega]
  · have hd : ¬ spriteColumn x0 px < 8 := by simp only [spriteColumn]; omega
    simp only [rowBit, BitVec.getLsbD_ushiftRight, hd, decide_false, Bool.false_and]
    rw [BitVec.getLsbD_of_ge b (x0 % 8 + (7 - px % 8)) (by omega)]

theorem rowBit_right (x0 px : Nat) (b : Byte) (h0 : x0 < 64) (hx : px < 64) (h : px / 8 = (x0 / 8 + 1) % 8) :
    rowBit x0 b px = (b <<< (8 - x0 % 8)).getLsbD (7 - px % 8) := by
  by_cases h1 : px % 8 < x0 % 8
  · have hd : spriteColumn x0 px = px % 8 + 8 - x0 % 8 := by simp only [spriteColumn]; omega
    have e1 : px % 8 + 8 - x0 % 8 < 8 := by omega
    have e2 : 7 - px % 8 < 8 := by omega
    have e3 : ¬ 7 - px % 8 < 8 - x0 % 8 := by omega
    simp only [rowBit, hd, BitVec.getLsbD_shiftLeft, e1, e2, e3, decide_true, decide_false, Bool.true_and, Bool.not_false]
    rw [show 7 - (px % 8 + 8 - x0 % 8) = 7 - px % 8 - (8 - x0 % 8) by omega]
  · have hd : ¬ spriteColumn x0 px < 8 := by simp only [spriteColumn]; omega
    have e3 : 7 - px % 8 < 8 - x0 % 8 := by omega
    simp only [rowBit, BitVec.getLsbD_shiftLeft, hd, e3, decide_true, decide_false, Bool.false_and, Bool.not_true, Bool.and_false]

theorem rowBit_else (x0 px : Nat) (b : Byte) (h0 : x0 < 64) (hx : px < 64) (h1 : px / 8 ≠ x0 / 8) (h2 : px / 8 ≠ (x0 / 8 + 1) % 8) :
    rowBit x0 b px = false := by
  have hd : ¬ spriteColumn x0 px < 8 := by simp only [spriteColumn]; omega
  simp only [rowBit, hd, decide_false, Bool.false_and]

/-- The pixel after one sprite row: turned over exactly under the row's 1-bits. -/
theorem Pix.pixel_xorRow (p : Pix) (x0 row px py : Nat) (b : Byte) (h0 : x0 < 64) (hr : row < 32) (hx : px < 64) (hy : py < 32) :
    (p.xorRow x0 row b).1.pixel px py = (p.pixel px py ^^ (decide (py = row) && rowBit x0 b px)) := by
  simp only [Pix.xorRow, shiftTowardsRight, shiftTowardsLeft, params_pixelMsbLeft, if_true]
  rw [Pix.pixel_xorByte _ _ _ _ _ _ hr (by omega) hx hy, Pix.pixel_xorByte _ _ _ _ _ _ hr (by omega) hx hy]
  by_cases h1 : px / 8 = x0 / 8
  · have h2 : ¬ px / 8 = (x0 / 8 + 1) % 8 := by omega
    simp only [rowBit_left x0 px b h0 hx h1, h1, and_true]
    have h3 : ¬ x0 / 8 = (x0 / 8 + 1) % 8 := by omega
    simp only [h3, and_false, decide_false, Bool.false_and, Bool.xor_false]
  · by_cases h2 : px / 8 = (x0 / 8 + 1) % 8
    · simp only [rowBit_right x0 px b h0 hx h2, h1, and_false, decide_false, Bool.false_and, Bool.xor_false]
      simp only [h2, and_true]
    · simp only [rowBit_else x0 px b h0 hx h1 h2, h1, h2, and_false, decide_false, Bool.false_and, Bool.xor_false, Bool.and_false]

/-- Two bytes share a 1-bit. -/
theorem and_bne_zero (a b : Byte) : (a &&& b != 0) = true ↔ ∃ k, k < 8 ∧ a.getLsbD (7 - k) = true ∧ b.getLsbD (7 - k) = true := by
  constructor
  · intro h
    by_contra hn
    have : a &&& b = 0 := by
      apply BitVec.eq_of_getLsbD_eq
      intro i hi
      by_contra hc
      refine hn ⟨7 - i, by omega, ?_⟩
      rw [show 7 - (7 - i) = i by omega]
      simpa using hc
    simp [this] at h
  · rintro ⟨k, _, h1, h2⟩
    have : (a &&& b).getLsbD (7 - k) = true := by simp [h1, h2]
    by_contra hc
    have hz : a &&& b = 0 := by simpa using hc
    simp [hz] at this

/-- The collision of one sprite row: some lit pixel lies under a 1-bit of the row. -/
theorem Pix.hit_xorRow (p : Pix) (x0 row : Nat) (b : Byte) (h0 : x0 < 64) :
    (p.xorRow x0 row b).2 = true ↔ ∃ px, px < 64 ∧ p.pixel px row = true ∧ rowBit x0 b px = true := by
  have hne : ¬ (x0 / 8 + 1) % 8 % 8 = x0 / 8 % 8 := by omega
  have hb : ((p.xorByte row (x0 / 8) (b >>> (x0 % 8))).1).byte row ((x0 / 8 + 1) % 8) = p.byte row ((x0 / 8 + 1) % 8) := by
    rw [Pix.byte_xorByte, if_neg (fun h => hne h.2)]
  simp only [Pix.xorRow, shiftTowardsRight, shiftTowardsLeft, params_pixelMsbLeft, if_true, Bool.or_eq_true]
  rw [show (p.xorByte row (x0 / 8) (b >>> (x0 % 8))).2 = (p.byte row (x0 / 8) &&& b >>> (x0 % 8) != 0) from rfl,
    show ∀ q : Pix, (q.xorByte row ((x0 / 8 + 1) % 8) (b <<< (8 - x0 % 8))).2 =
      (q.byte row ((x0 / 8 + 1) % 8) &&& b <<< (8 - x0 % 8) != 0) from fun _ => rfl, hb, and_bne_zero, and_bne_zero]
  have key : ∀ c k, c < 8 → k < 8 → p.pixel (8 * c + k) row = (p.byte row c).getLsbD (7 - k) := by
    intro c k hc hk
    simp only [Pix.pixel, pixelBit, params_pixelMsbLeft, if_true, show (8 * c + k) / 8 = c by omega, show (8 * c + k) % 8 = k by omega]
  constructor
  · rintro (⟨k, hk, h1, h2⟩ | ⟨k, hk, h1, h2⟩)
    · refine ⟨8 * (x0 / 8) + k, by omega, by rw [key _ _ (by omega) hk]; exact h1, ?_⟩
      rw [rowBit_left x0 _ b h0 (by omega) (by omega), show (8 * (x0 / 8) + k) % 8 = k by omega]; exact h2
    · refine ⟨8 * ((x0 / 8 + 1) % 8) + k, by omega, by rw [key _ _ (by omega) hk]; exact h1, ?_⟩
      rw [rowBit_right x0 _ b h0 (by omega) (by omega), show (8 * ((x0 / 8 + 1) % 8) + k) % 8 = k by omega]; exact h2
  · rintro ⟨px, hx, h1, h2⟩
    have e : px = 8 * (px / 8) + px % 8 := by omega
    rw [e, key _ _ (by omega) (by omega)] at h1
    by_cases g1 : px / 8 = x0 / 8
    · left; exact ⟨px % 8, by omega, by rw [← g1]; exact h1, by rw [← rowBit_left x0 px b h0 hx g1]; exact h2⟩
    · by_cases g2 : px / 8 = (x0 / 8 + 1) % 8
      · right; exact ⟨px % 8, by omega, by rw [← g2]; exact h1, by rw [← rowBit_right x0 px b h0 hx g2]; exact h2⟩
      · rw [rowBit_else x0 px b h0 hx g1 g2] at h2; cases h2

/-- The bit a sprite has on a pixel, sprite row 0 standing `r` rows below `y0`. -/
def spriteBit (x0 y0 : Nat) : Nat → List Byte → Nat → Nat → Bool
  | _, [], _, _ => false
  | r, b :: bs, px, py => (decide (py = (y0 + r) % 32) && rowBit x0 b px) || spriteBit x0 y0 (r + 1) bs px py

theorem spriteBit_iff (x0 y0 r : Nat) (bs : List Byte) (px py : Nat) :
    spriteBit x0 y0 r bs px py = true ↔
      ∃ k b, bs[k]? = some b ∧ py = (y0 + (r + k)) % 32 ∧ rowBit x0 b px = true := by
  induction bs generalizing r with
  | nil => simp [spriteBit]
  | cons b bs ih =>
    simp only [spriteBit, Bool.or_eq_true, Bool.and_eq_true, decide_eq_true_eq, ih]
    constructor
    · rintro (⟨h1, h2⟩ | ⟨k, c, h1, h2, h3⟩)
      · exact ⟨0, b, rfl, h1, h2⟩
      · exact ⟨k + 1, c, by simpa using h1, by rw [h2]; congr 1; omega, h3⟩
    · rintro ⟨k, c, h1, h2, h3⟩
      cases k with
      | zero => left; simp at h1; subst h1; exact ⟨h2, h3⟩
      | succ k => right; exact ⟨k, c, by simpa using h1, by rw [h2]; congr 1; omega, h3⟩

/-- No row of a sprite of at most 32 rows lies on an earlier row of it. -/
theorem spriteBit_row (x0 y0 r : Nat) (bs : List Byte) (px : Nat) (hn : r + 1 + bs.length ≤ 32) :
    spriteBit x0 y0 (r + 1) bs px ((y0 + r) % 32) = false := by
  by_contra h
  obtain ⟨k, b, hk, hr, _⟩ := (spriteBit_iff _ _ _ _ _ _).1 (by simpa using h)
  have : k < bs.length := by
    by_contra hc
    rw [List.getElem?_eq_none (by omega)] at hk; cases hk
  omega

/-- The pixels after a sprite of at most 32 rows. -/
theorem Pix.pixel_xorRows (x0 y0 r : Nat) (bs : List Byte) (p : Pix) (hit : Bool) (px py : Nat) (h0 : x0 < 64) (hx : px < 64)
    (hy : py < 32) (hn : r + bs.length ≤ 32) :
    (Pix.xorRows x0 y0 r bs (p, hit)).1.pixel px py = (p.pixel px py ^^ spriteBit x0 y0 r bs px py) := by
  induction bs generalizing r p hit with
  | nil => simp [Pix.xorRows, spriteBit]
  | cons b bs ih =>
    have hs : rowShown y0 r = true := rfl
    simp only [List.length_cons] at hn
    simp only [Pix.xorRows, hs, if_true, params_screenH]
    rw [ih (r + 1) _ _ (by omega), Pix.pixel_xorRow p x0 _ px py b h0 (Nat.mod_lt _ (by omega)) hx hy]
    simp only [spriteBit]
    by_cases h : py = (y0 + r) % 32
    · rw [h, spriteBit_row x0 y0 r bs px (by omega)]; simp
    · simp [h]

/-- The collision flag of a sprite of at most 32 rows: some pixel lit before it lies under a 1-bit of it. -/
theorem Pix.hit_xorRows (x0 y0 r : Nat) (bs : List Byte) (p : Pix) (hit : Bool) (h0 : x0 < 64) (hn : r + bs.length ≤ 32) :
    (Pix.xorRows x0 y0 r bs (p, hit)).2 = true ↔
      hit = true ∨ ∃ px py, px < 64 ∧ py < 32 ∧ p.pixel px py = true ∧ spriteBit x0 y0 r bs px py = true := by
  induction bs generalizing r p hit with
  | nil => simp [Pix.xorRows, spriteBit]
  | cons b bs ih =>
    have hs : rowShown y0 r = true := rfl
    have hlt : (y0 + r) % 32 < 32 := Nat.mod_lt _ (by omega)
    simp only [List.length_cons] at hn
    simp only [Pix.xorRows, hs, if_true, params_screenH]
    rw [ih (r + 1) _ _ (by omega), Bool.or_eq_true, Pix.hit_xorRow p x0 _ b h0, or_assoc]
    refine or_congr_right ?_
    constructor
    · rintro (⟨px, hx, h1, h2⟩ | ⟨px, py, hx, hy, h1, h2⟩)
      · exact ⟨px, _, hx, hlt, h1, by simp [spriteBit, h2]⟩
      · rw [Pix.pixel_xorRow p x0 _ px py b h0 hlt hx hy] at h1
        have hne : py ≠ (y0 + r) % 32 := by
          rintro rfl; rw [spriteBit_row x0 y0 r bs px (by omega)] at h2; cases h2
        exact ⟨px, py, hx, hy, by simpa [hne] using h1, by simp [spriteBit, h2]⟩
    · rintro ⟨px, py, hx, hy, h1, h2⟩
      simp only [spriteBit, Bool.or_eq_true, Bool.and_eq_true, decide_eq_true_eq] at h2
      rcases h2 with ⟨rfl, h2⟩ | h2
      · left; exact ⟨px, hx, h1, h2⟩
      · right
        have hne : py ≠ (y0 + r) % 32 := by
          rintro rfl; rw [spriteBit_row x0 y0 r bs px (by omega)] at h2; cases h2
        exact ⟨px, py, hx, hy, by rw [Pix.pixel_xorRow p x0 _ px py b h0 hlt hx hy]; simpa [hne] using h1, h2⟩
/-- Two pixel buffers with the same pixels are the same. -/
theorem Pix.ext_pixel {p q : Pix} (h : ∀ px py, px < 64 → py < 32 → p.pixel px py = q.pixel px py) : p = q := by
  apply Pix.ext
  intro row col
  apply BitVec.eq_of_getLsbD_eq
  intro i hi
  have := h (8 * (col % 8) + (7 - i)) (row % 32) (by omega) (by omega)
  simpa [Pix.pixel, pixelBit, Pix.byte, show (8 * (col % 8) + (7 - i)) / 8 = col % 8 by omega,
    show (8 * (col % 8) + (7 - i)) % 8 = 7 - i by omega, show 7 - (7 - i) = i by omega] using this
end Sys2Proof.Machine
end

