-- ==== Sys2Proof/Laws/PerInstr.lean ====
section
/-! SUPPORT. The family EncodesInRow: the word of an instruction lies in the instruction's own row of the opcode map (30_encoding.md R66, R73). -/

namespace Sys2Proof.Laws

/-! ## The operand bits stay out of the fixed bits, format by format (R63) -/

theorem packNNN_fixed (nnn : Addr12) : packNNN nnn &&& 0xF000#16 = 0#16 := by
  apply BitVec.eq_of_getLsbD_eq
  intro i hi
  interval_cases i <;> simp [packNNN]

theorem packX_fixed (x : RegIx) : packX x &&& 0xF0FF#16 = 0#16 := by
  apply BitVec.eq_of_getLsbD_eq
  intro i hi
  interval_cases i <;> simp [packX]

theorem packXK_fixed (x : RegIx) (kk : Byte) : packXK x kk &&& 0xF000#16 = 0#16 := by
  apply BitVec.eq_of_getLsbD_eq
  intro i hi
  interval_cases i <;> simp [packXK, packX]

theorem packXY_fixed (x y : RegIx) : packXY x y &&& 0xF00F#16 = 0#16 := by
  apply BitVec.eq_of_getLsbD_eq
  intro i hi
  interval_cases i <;> simp [packXY, packX]

theorem packXYN_fixed (x y : RegIx) (n : Count) : packXYN x y n &&& 0xF000#16 = 0#16 := by
  apply BitVec.eq_of_getLsbD_eq
  intro i hi
  interval_cases i <;> simp [packXYN, packXY, packX]

/-- A word made of a row's match and operand bits outside the mask has the row's fixed bits. -/
theorem or_and_fixed (bits mask ops : Word) (hb : bits &&& mask = bits) (ho : ops &&& mask = 0#16) :
    (bits ||| ops) &&& mask = bits := by
  apply BitVec.eq_of_getLsbD_eq
  intro i _
  have h1 := congrArg (BitVec.getLsbD · i) hb
  have h2 := congrArg (BitVec.getLsbD · i) ho
  simp only [BitVec.getLsbD_and, BitVec.getLsbD_or, BitVec.getLsbD_zero] at h1 h2 ⊢
  revert h1 h2
  generalize bits.getLsbD i = b, mask.getLsbD i = m, ops.getLsbD i = o
  cases b <;> cases m <;> cases o <;> simp

/-- A row's match has no bit outside its mask. -/
theorem row_fixed (o : Opcode) : (opcodeRow o).bits &&& (opcodeRow o).mask = (opcodeRow o).bits := by
  cases o <;> decide

/-! ## The family -/

/-- The word of the instruction has the fixed bits of the instruction's row. -/
def EncodesInRow.Statement (i : Instr) : Prop := encode i &&& (opcodeRow i.opcode).mask = (opcodeRow i.opcode).bits

theorem EncodesInRow.clearDisplay : EncodesInRow.Statement .clearDisplay := by unfold EncodesInRow.Statement; decide

theorem EncodesInRow.ret : EncodesInRow.Statement .ret := by unfold EncodesInRow.Statement; decide

theorem EncodesInRow.jump (nnn : Addr12) : EncodesInRow.Statement (.jump nnn) :=
  or_and_fixed _ _ _ (row_fixed .jump) (packNNN_fixed nnn)

theorem EncodesInRow.call (nnn : Addr12) : EncodesInRow.Statement (.call nnn) :=
  or_and_fixed _ _ _ (row_fixed .call) (packNNN_fixed nnn)

theorem EncodesInRow.skipEqualByte (x : RegIx) (kk : Byte) : EncodesInRow.Statement (.skipEqualByte x kk) :=
  or_and_fixed _ _ _ (row_fixed .skipEqualByte) (packXK_fixed x kk)

theorem EncodesInRow.skipNotEqualByte (x : RegIx) (kk : Byte) : EncodesInRow.Statement (.skipNotEqualByte x kk) :=
  or_and_fixed _ _ _ (row_fixed .skipNotEqualByte) (packXK_fixed x kk)

theorem EncodesInRow.skipEqualReg (x : RegIx) (y : RegIx) : EncodesInRow.Statement (.skipEqualReg x y) :=
  or_and_fixed _ _ _ (row_fixed .skipEqualReg) (packXY_fixed x y)

theorem EncodesInRow.skipNotEqualReg (x : RegIx) (y : RegIx) : EncodesInRow.Statement (.skipNotEqualReg x y) :=
  or_and_fixed _ _ _ (row_fixed .skipNotEqualReg) (packXY_fixed x y)

theorem EncodesInRow.loadByte (x : RegIx) (kk : Byte) : EncodesInRow.Statement (.loadByte x kk) :=
  or_and_fixed _ _ _ (row_fixed .loadByte) (packXK_fixed x kk)

theorem EncodesInRow.addByte (x : RegIx) (kk : Byte) : EncodesInRow.Statement (.addByte x kk) :=
  or_and_fixed _ _ _ (row_fixed .addByte) (packXK_fixed x kk)

theorem EncodesInRow.move (x : RegIx) (y : RegIx) : EncodesInRow.Statement (.move x y) :=
  or_and_fixed _ _ _ (row_fixed .move) (packXY_fixed x y)

theorem EncodesInRow.orReg (x : RegIx) (y : RegIx) : EncodesInRow.Statement (.orReg x y) :=
  or_and_fixed _ _ _ (row_fixed .orReg) (packXY_fixed x y)

theorem EncodesInRow.andReg (x : RegIx) (y : RegIx) : EncodesInRow.Statement (.andReg x y) :=
  or_and_fixed _ _ _ (row_fixed .andReg) (packXY_fixed x y)

theorem EncodesInRow.xorReg (x : RegIx) (y : RegIx) : EncodesInRow.Statement (.xorReg x y) :=
  or_and_fixed _ _ _ (row_fixed .xorReg) (packXY_fixed x y)

theorem EncodesInRow.addReg (x : RegIx) (y : RegIx) : EncodesInRow.Statement (.addReg x y) :=
  or_and_fixed _ _ _ (row_fixed .addReg) (packXY_fixed x y)

theorem EncodesInRow.subReg (x : RegIx) (y : RegIx) : EncodesInRow.Statement (.subReg x y) :=
  or_and_fixed _ _ _ (row_fixed .subReg) (packXY_fixed x y)

theorem EncodesInRow.shiftRight (x : RegIx) (y : RegIx) : EncodesInRow.Statement (.shiftRight x y) :=
  or_and_fixed _ _ _ (row_fixed .shiftRight) (packXY_fixed x y)

theorem EncodesInRow.subtractReversed (x : RegIx) (y : RegIx) : EncodesInRow.Statement (.subtractReversed x y) :=
  or_and_fixed _ _ _ (row_fixed .subtractReversed) (packXY_fixed x y)

theorem EncodesInRow.shiftLeft (x : RegIx) (y : RegIx) : EncodesInRow.Statement (.shiftLeft x y) :=
  or_and_fixed _ _ _ (row_fixed .shiftLeft) (packXY_fixed x y)

theorem EncodesInRow.loadAddress (nnn : Addr12) : EncodesInRow.Statement (.loadAddress nnn) :=
  or_and_fixed _ _ _ (row_fixed .loadAddress) (packNNN_fixed nnn)

theorem EncodesInRow.jumpWithOffset (nnn : Addr12) : EncodesInRow.Statement (.jumpWithOffset nnn) :=
  or_and_fixed _ _ _ (row_fixed .jumpWithOffset) (packNNN_fixed nnn)

theorem EncodesInRow.randomAndMask (x : RegIx) (kk : Byte) : EncodesInRow.Statement (.randomAndMask x kk) :=
  or_and_fixed _ _ _ (row_fixed .randomAndMask) (packXK_fixed x kk)

theorem EncodesInRow.drawSprite (x : RegIx) (y : RegIx) (n : Count) : EncodesInRow.Statement (.drawSprite x y n) :=
  or_and_fixed _ _ _ (row_fixed .drawSprite) (packXYN_fixed x y n)

theorem EncodesInRow.skipIfKeyPressed (x : RegIx) : EncodesInRow.Statement (.skipIfKeyPressed x) :=
  or_and_fixed _ _ _ (row_fixed .skipIfKeyPressed) (packX_fixed x)

theorem EncodesInRow.skipIfKeyNotPressed (x : RegIx) : EncodesInRow.Statement (.skipIfKeyNotPressed x) :=
  or_and_fixed _ _ _ (row_fixed .skipIfKeyNotPressed) (packX_fixed x)

theorem EncodesInRow.loadDelayTimer (x : RegIx) : EncodesInRow.Statement (.loadDelayTimer x) :=
  or_and_fixed _ _ _ (row_fixed .loadDelayTimer) (packX_fixed x)

theorem EncodesInRow.waitForKey (x : RegIx) : EncodesInRow.Statement (.waitForKey x) :=
  or_and_fixed _ _ _ (row_fixed .waitForKey) (packX_fixed x)

theorem EncodesInRow.setDelayTimer (x : RegIx) : EncodesInRow.Statement (.setDelayTimer x) :=
  or_and_fixed _ _ _ (row_fixed .setDelayTimer) (packX_fixed x)

theorem EncodesInRow.setSoundTimer (x : RegIx) : EncodesInRow.Statement (.setSoundTimer x) :=
  or_and_fixed _ _ _ (row_fixed .setSoundTimer) (packX_fixed x)

theorem EncodesInRow.addToAddress (x : RegIx) : EncodesInRow.Statement (.addToAddress x) :=
  or_and_fixed _ _ _ (row_fixed .addToAddress) (packX_fixed x)

theorem EncodesInRow.loadFontAddress (x : RegIx) : EncodesInRow.Statement (.loadFontAddress x) :=
  or_and_fixed _ _ _ (row_fixed .loadFontAddress) (packX_fixed x)

theorem EncodesInRow.storeBcd (x : RegIx) : EncodesInRow.Statement (.storeBcd x) :=
  or_and_fixed _ _ _ (row_fixed .storeBcd) (packX_fixed x)

theorem EncodesInRow.storeRegisterBlock (x : RegIx) : EncodesInRow.Statement (.storeRegisterBlock x) :=
  or_and_fixed _ _ _ (row_fixed .storeRegisterBlock) (packX_fixed x)

theorem EncodesInRow.loadRegisterBlock (x : RegIx) : EncodesInRow.Statement (.loadRegisterBlock x) :=
  or_and_fixed _ _ _ (row_fixed .loadRegisterBlock) (packX_fixed x)

theorem EncodesInRow.sys (nnn : Addr12) : EncodesInRow.Statement (.sys nnn) :=
  or_and_fixed _ _ _ (row_fixed .sys) (packNNN_fixed nnn)

end Sys2Proof.Laws
end

