-- ==== Sys2Proof/Laws/Step.lean ====
section
/-! SUPPORT. The step: which branch is taken, said once. -/

namespace Sys2Proof.Machine

/-- Everything a `Step` can do (40_step_and_dispatch.md R81): halted, blocked, resolving a key, running the decoded instruction, or passing
over an invalid word. -/
theorem step_cases (s : State) :
    (4094 < s.pc.toNat ∧ branchOf s = .halted ∧ step s = .next s) ∨
    (s.pc.toNat ≤ 4094 ∧ s.kwBlocked = true ∧ s.key = none ∧ branchOf s = .blocked ∧ step s = .next s) ∨
    (∃ k, s.pc.toNat ≤ 4094 ∧ s.kwBlocked = true ∧ s.key = some k ∧ branchOf s = .resolve k ∧
      step s = .next (resolveKey k s)) ∨
    (∃ i, s.pc.toNat ≤ 4094 ∧ s.kwBlocked = false ∧ decodeWord s.fetched = .ok i ∧ branchOf s = .run s.fetched i ∧
      step s = exec i s) ∨
    (∃ e, s.pc.toNat ≤ 4094 ∧ s.kwBlocked = false ∧ decodeWord s.fetched = .error e ∧ branchOf s = .invalid s.fetched ∧
      step s = execInvalid s) := by
  by_cases hp : 4094 < s.pc.toNat
  · left
    have hb : branchOf s = .halted := by simp [branchOf, haltCheck, State.halted, hp]
    exact ⟨hp, hb, by simp [step, cycle, hb, perform]⟩
  · right
    have hh : haltCheck s = none := by simp [haltCheck, State.halted, hp]
    have hle : s.pc.toNat ≤ 4094 := by omega
    cases hk : s.kwBlocked with
    | true =>
      cases hy : s.key with
      | none =>
        left
        have hb : branchOf s = .blocked := by simp [branchOf, hh, keyWaitCheck, hk, hy]
        exact ⟨hle, rfl, rfl, hb, by simp [step, cycle, hb, perform]⟩
      | some k =>
        right; left
        have hb : branchOf s = .resolve k := by simp [branchOf, hh, keyWaitCheck, hk, hy]
        exact ⟨k, hle, rfl, rfl, hb, by simp [step, cycle, hb, perform]⟩
    | false =>
      right; right
      have hw : keyWaitCheck s = none := by simp [keyWaitCheck, hk]
      cases hd : decodeWord s.fetched with
      | ok i =>
        left
        have hb : branchOf s = .run s.fetched i := by simp [branchOf, hh, hw, fetchDecode, hd]
        exact ⟨i, hle, rfl, rfl, hb, by simp [step, cycle, hb, perform]⟩
      | error e =>
        right
        have hb : branchOf s = .invalid s.fetched := by simp [branchOf, hh, hw, fetchDecode, hd]
        exact ⟨e, hle, rfl, rfl, hb, by simp [step, cycle, hb, perform]⟩

end Sys2Proof.Machine
end

