-- ==== Sys2Proof/Machine/Assembly.lean ====
section
/-! DEFINITION. The assembler text (30_encoding.md R71 to R74, decision D30): from lines of text to the bytes of a program at 0x200. It is no part of
the Core and no step reads it. -/

namespace Sys2Proof.Machine

/-- Text as characters. -/
abbrev Text := List Char

/-- An operand as written (R72). -/
inductive Operand where
  /-- `V` and one hexadecimal digit. -/
  | reg (x : RegIx)
  /-- A hexadecimal numeral with `0x`, or a decimal one. -/
  | num (n : Nat)
  /-- A label, or one of the words `I`, `DT`, `ST`, `K`, `F`, `B`, `[I]`. -/
  | name (t : Text)
  deriving DecidableEq, Repr

/-- A place for an operand in a form, with the field it fills (R62). -/
inductive Slot where
  | x
  | y
  | kk
  | nnn
  | n
  | v0
  | word (t : String)
  deriving DecidableEq, Repr

/-- The operands after the table's own mnemonic, by format (R63); the shifts take one register (R72). -/
def slotsOf (o : Opcode) : List Slot :=
  match o, (opcodeRow o).format with
  | .shiftRight, _ => [.x]
  | .shiftLeft, _ => [.x]
  | _, .z => []
  | _, .a => [.nnn]
  | _, .xk => [.x, .kk]
  | _, .xy => [.x, .y]
  | _, .xyn => [.x, .y, .n]
  | _, .xb => [.x]

/-- The mnemonic of a row as R66 spells it (the source's name): all in lower case but for `store-BCD`. -/
def mnemonicOf : Opcode → String
  | .clearDisplay => "clear-display" | .ret => "return" | .jump => "jump" | .call => "call"
  | .skipEqualByte => "skip-equal-byte" | .skipNotEqualByte => "skip-not-equal-byte"
  | .skipEqualReg => "skip-equal-reg" | .skipNotEqualReg => "skip-not-equal-reg"
  | .loadByte => "load-byte" | .addByte => "add-byte" | .move => "move" | .orReg => "or" | .andReg => "and"
  | .xorReg => "xor" | .addReg => "add" | .subReg => "sub" | .shiftRight => "shift-right"
  | .subtractReversed => "subtract-reversed" | .shiftLeft => "shift-left" | .loadAddress => "load-address"
  | .jumpWithOffset => "jump-with-offset" | .randomAndMask => "random-and-mask" | .drawSprite => "draw-sprite"
  | .skipIfKeyPressed => "skip-if-key-pressed" | .skipIfKeyNotPressed => "skip-if-key-not-pressed"
  | .loadDelayTimer => "load-delay-timer" | .waitForKey => "wait-for-key" | .setDelayTimer => "set-delay-timer"
  | .setSoundTimer => "set-sound-timer" | .addToAddress => "add-to-address"
  | .loadFontAddress => "load-font-address" | .storeBcd => "store-BCD"
  | .storeRegisterBlock => "store-register-block" | .loadRegisterBlock => "load-register-block" | .sys => "sys"

/-- The mnemonic of a row "in lower case" (R72). DESIGN CHOICE: R66 and the programs of 95_test_vectors.md write `store-BCD`, R72 asks for lower case, so
the model accepts both `store-BCD` and `store-bcd` (assumption log entry 21). -/
def lowerMnemonicOf (o : Opcode) : String := if o = .storeBcd then "store-bcd" else mnemonicOf o

/-- The synonym of a row (R66, R72): its short mnemonic and its operands. -/
def shortOf : Opcode → String × List Slot
  | .clearDisplay => ("CLS", []) | .ret => ("RET", []) | .jump => ("JP", [.nnn]) | .call => ("CALL", [.nnn])
  | .skipEqualByte => ("SE", [.x, .kk]) | .skipNotEqualByte => ("SNE", [.x, .kk])
  | .skipEqualReg => ("SE", [.x, .y]) | .skipNotEqualReg => ("SNE", [.x, .y])
  | .loadByte => ("LD", [.x, .kk]) | .addByte => ("ADD", [.x, .kk]) | .move => ("LD", [.x, .y])
  | .orReg => ("OR", [.x, .y]) | .andReg => ("AND", [.x, .y]) | .xorReg => ("XOR", [.x, .y])
  | .addReg => ("ADD", [.x, .y]) | .subReg => ("SUB", [.x, .y]) | .shiftRight => ("SHR", [.x])
  | .subtractReversed => ("SUBN", [.x, .y]) | .shiftLeft => ("SHL", [.x])
  | .loadAddress => ("LD", [.word "I", .nnn]) | .jumpWithOffset => ("JP", [.v0, .nnn])
  | .randomAndMask => ("RND", [.x, .kk]) | .drawSprite => ("DRW", [.x, .y, .n])
  | .skipIfKeyPressed => ("SKP", [.x]) | .skipIfKeyNotPressed => ("SKNP", [.x])
  | .loadDelayTimer => ("LD", [.x, .word "DT"]) | .waitForKey => ("LD", [.x, .word "K"])
  | .setDelayTimer => ("LD", [.word "DT", .x]) | .setSoundTimer => ("LD", [.word "ST", .x])
  | .addToAddress => ("ADD", [.word "I", .x]) | .loadFontAddress => ("LD", [.word "F", .x])
  | .storeBcd => ("LD", [.word "B", .x]) | .storeRegisterBlock => ("LD", [.word "[I]", .x])
  | .loadRegisterBlock => ("LD", [.x, .word "[I]"]) | .sys => ("SYS", [.nnn])

/-- The addresses of labels. -/
abbrev Labels := List (Text × Nat)

/-- The number an immediate operand stands for: a numeral, or where `isAddress` a label's address (R72). -/
def Operand.value (labels : Labels) (isAddress : Bool) : Operand → Option Nat
  | .num n => some n
  | .name t => if isAddress then labels.lookup t else none
  | .reg _ => none

/-- The operand bits of one operand in its slot; the immediates within `kk` 0 to 255, `nnn` 0 to 4095, `n` 0 to 15 (R72). -/
def Slot.bits (labels : Labels) : Slot → Operand → Option Word
  | .x, .reg r => some (packX r)
  | .y, .reg r => some (packXY 0 r)
  | .v0, .reg r => if r = 0 then some 0 else none
  | .word t, .name u => if t.toList = u then some 0 else none
  | .kk, o => (o.value labels false).bind fun k => if k ≤ 255 then some (BitVec.ofNat 16 k) else none
  | .nnn, o => (o.value labels true).bind fun k => if k ≤ 4095 then some (BitVec.ofNat 16 k) else none
  | .n, o => (o.value labels false).bind fun k => if k ≤ 15 then some (BitVec.ofNat 16 k) else none
  | _, _ => none

/-- The operand bits of all operands. -/
def slotBits (labels : Labels) : List Slot → List Operand → Option Word
  | [], [] => some 0
  | s :: ss, o :: os => (s.bits labels o).bind fun w => (slotBits labels ss os).map (w ||| ·)
  | _, _ => none

/-- The instruction of a row written with a mnemonic, in either spelling of its case, or with its synonym, and operands. -/
def writtenAs (labels : Labels) (m : Text) (ops : List Operand) (o : Opcode) : Option Instr :=
  let bits :=
    if (mnemonicOf o).toList = m ∨ (lowerMnemonicOf o).toList = m then slotBits labels (slotsOf o) ops
    else if (shortOf o).1.toList = m then slotBits labels (shortOf o).2 ops
    else none
  (bits.map fun w => o.build w).filter wellFormed

/-- One statement of a program. -/
inductive Item where
  | label (name : Text)
  | insn (m : Text) (ops : List Operand)
  | bytes (bs : List Byte)
  deriving DecidableEq, Repr

/-- The bytes a statement takes. -/
def Item.size : Item → Nat
  | .label _ => 0
  | .insn _ _ => params.insnBytes
  | .bytes bs => bs.length

/-- The address each label stands for. R72 says "the address of the next instruction". DESIGN CHOICE: the model gives the address of the next statement,
so that a label before a `.byte` line stands for that data, and a label with nothing after it for the address after the program
(assumption log entry 21). -/
def labelsOf : Nat → List Item → Labels
  | _, [] => []
  | a, .label t :: is => (t, a) :: labelsOf a is
  | a, i :: is => labelsOf (a + i.size) is

/-- The bytes of one statement; `.byte` places its bytes as they are (R74). -/
def Item.emit (labels : Labels) : Item → Option (List Byte)
  | .label _ => some []
  | .insn m ops => ((tabulated ++ [Opcode.sys]).findSome? (writtenAs labels m ops)).map encodeBytes
  | .bytes bs => some bs

/-- All statements' bytes, or none if one does not assemble. -/
def emitAll (labels : Labels) : List Item → Option (List Byte)
  | [] => some []
  | i :: is => (i.emit labels).bind fun bs => (emitAll labels is).map (bs ++ ·)

/-! ## Reading text -/

/-- The sixteen digits of R72, `0` to `F`, each at the position of its value. -/
def hexDigits : Text := "0123456789ABCDEF".toList

/-- The last six of them as small letters. DESIGN CHOICE: R72 writes `0` to `F`; the model reads either case (assumption log entry 21). -/
def smallHexDigits : Text := "abcdef".toList

/-- The value of a hexadecimal digit. -/
def hexDigit (c : Char) : Option Nat := hexDigits.idxOf? c <|> (smallHexDigits.idxOf? c).map (10 + ·)

/-- The digits of a numeral in a base, after the value read so far. -/
def readDigits (base : Nat) : Nat → Text → Option Nat
  | acc, [] => some acc
  | acc, c :: cs => (hexDigit c).bind fun d => if d < base then readDigits base (acc * base + d) cs else none

/-- A numeral: hexadecimal with `0x`, else decimal (R72). -/
def readNum : Text → Option Nat
  | '0' :: 'x' :: c :: cs => readDigits 16 0 (c :: cs)
  | c :: cs => readDigits 10 0 (c :: cs)
  | [] => none

/-- Takes the blanks off both ends. -/
def trimText (t : Text) : Text := ((t.dropWhile (· == ' ')).reverse.dropWhile (· == ' ')).reverse

/-- An operand (R72). -/
def readOperand (t : Text) : Operand :=
  match t with
  | ['V', d] =>
    match hexDigit d with
    | some k => .reg (BitVec.ofNat 4 k)
    | none => .name t
  | _ =>
    match readNum t with
    | some k => .num k
    | none => .name t

/-- The parts between separators. -/
def splitText (c : Char) : Text → List Text
  | [] => [[]]
  | d :: ds =>
    if d = c then [] :: splitText c ds
    else
      match splitText c ds with
      | [] => [[d]]
      | w :: ws => (d :: w) :: ws

/-- The comma-separated parts of the text after a mnemonic. -/
def operandTexts (t : Text) : List Text := if trimText t = [] then [] else (splitText ',' t).map trimText

/-- A statement without label and comment: nothing, `.byte` with numerals 0 to 255, or an instruction. -/
def readStatement (t : Text) : Option (List Item) :=
  let t := trimText t
  let m := t.takeWhile (· != ' ')
  let ops := operandTexts (t.dropWhile (· != ' '))
  if t = [] then some []
  else if m = ".byte".toList then
    (ops.mapM fun o => (readNum o).bind fun k => if k ≤ 255 then some (BitVec.ofNat 8 k) else none).map fun bs => [.bytes bs]
  else some [.insn m (ops.map readOperand)]

/-- A label's name, the blanks around it taken off. DESIGN CHOICE: R72 does not say what a name is; the model takes any text that is not empty and holds
neither a blank nor a comma, and a line with anything else before its `:` does not assemble (assumption log entry 21). -/
def readLabel (t : Text) : Option Text :=
  let name := trimText t
  if name = [] ∨ ' ' ∈ name ∨ ',' ∈ name then none else some name

/-- A line: a label with `:` first, a statement, a comment from `;` on (R72). -/
def readLine (t : Text) : Option (List Item) :=
  match splitText ':' (t.takeWhile (· != ';')) with
  | [s] => readStatement s
  | [l, s] => (readLabel l).bind fun name => (readStatement s).map (.label name :: ·)
  | _ => none

/-- The statements of all lines. -/
def readLines : List String → Option (List Item)
  | [] => some []
  | l :: ls => (readLine l.toList).bind fun is => (readLines ls).map (is ++ ·)

/-- The bytes of a program written as lines of text; it starts at 0x200 (R74). -/
def assemble (lines : List String) : Option (List Byte) :=
  (readLines lines).bind fun is => emitAll (labelsOf params.loadAddr.toNat is) is

end Sys2Proof.Machine
end

