-- ==== Sys2Proof/Tests/Slice0.lean ====
section
/-! SUPPORT. The model's own tests: ill-formed terms refused, every constructor's word written out bit by bit, the vectors of 95_test_vectors.md one step
at a time, and a witness for the hypotheses of every statement. The expected values are the spec's: each test names its vector or rule. -/

namespace Sys2Proof.Tests

open Sys2Proof Sys2Proof.Machine

/-! ## WellFormed (R72): the two ill-formed terms -/

theorem test_wellFormed_refuses_sys_0E0 : ¬ WellFormed (.sys 0x0E0) := by decide
theorem test_wellFormed_refuses_sys_0EE : ¬ WellFormed (.sys 0x0EE) := by decide
theorem test_wellFormed_accepts : WellFormed (.sys 0x0E1) ∧ WellFormed (.drawSprite 15 15 15) := by decide

/-! ## Decoding: a word for every constructor, bit by bit from R63 and R66 -/

theorem test_decode_family_0 :
    decodeWord 0b0000_0000_1110_0000#16 = .ok .clearDisplay ∧ decodeWord 0b0000_0000_1110_1110#16 = .ok .ret ∧
    decodeWord 0b0000_0001_0010_0011#16 = .ok (.sys 0x123) ∧ decodeWord 0b0000_0000_1110_0001#16 = .ok (.sys 0x0E1) := ⟨rfl, rfl, rfl, rfl⟩
theorem test_decode_families_1_2 :
    decodeWord 0b0001_1010_1011_1100#16 = .ok (.jump 0xABC) ∧ decodeWord 0b0010_0011_0000_0000#16 = .ok (.call 0x300) := ⟨rfl, rfl⟩
theorem test_decode_families_3_4 :
    decodeWord 0b0011_0010_0001_0000#16 = .ok (.skipEqualByte 2 0x10) ∧
    decodeWord 0b0100_1111_0001_0001#16 = .ok (.skipNotEqualByte 15 0x11) := ⟨rfl, rfl⟩
theorem test_decode_families_5_9 :
    decodeWord 0b0101_0001_0010_0000#16 = .ok (.skipEqualReg 1 2) ∧
    decodeWord 0b1001_0001_0010_0000#16 = .ok (.skipNotEqualReg 1 2) := ⟨rfl, rfl⟩
theorem test_decode_families_6_7 :
    decodeWord 0b0110_0001_1111_1111#16 = .ok (.loadByte 1 0xFF) ∧
    decodeWord 0b0111_0011_0000_0101#16 = .ok (.addByte 3 5) := ⟨rfl, rfl⟩
theorem test_decode_family_8_logic :
    decodeWord 0b1000_0001_0100_0000#16 = .ok (.move 1 4) ∧ decodeWord 0b1000_0001_0010_0001#16 = .ok (.orReg 1 2) ∧
    decodeWord 0b1000_0001_0010_0010#16 = .ok (.andReg 1 2) ∧
    decodeWord 0b1000_0001_0010_0011#16 = .ok (.xorReg 1 2) := ⟨rfl, rfl, rfl, rfl⟩
theorem test_decode_family_8_arithmetic :
    decodeWord 0b1000_0000_0001_0100#16 = .ok (.addReg 0 1) ∧ decodeWord 0b1000_0001_0010_0101#16 = .ok (.subReg 1 2) ∧
    decodeWord 0b1000_0001_0010_0110#16 = .ok (.shiftRight 1 2) ∧
    decodeWord 0b1000_0001_0010_0111#16 = .ok (.subtractReversed 1 2) ∧
    decodeWord 0b1000_0001_0010_1110#16 = .ok (.shiftLeft 1 2) := ⟨rfl, rfl, rfl, rfl, rfl⟩
theorem test_decode_families_A_B_C_D :
    decodeWord 0b1010_0010_1111_0000#16 = .ok (.loadAddress 0x2F0) ∧
    decodeWord 0b1011_1111_1111_1111#16 = .ok (.jumpWithOffset 0xFFF) ∧
    decodeWord 0b1100_0011_0000_1111#16 = .ok (.randomAndMask 3 0x0F) ∧
    decodeWord 0b1101_0001_0010_0101#16 = .ok (.drawSprite 1 2 5) := ⟨rfl, rfl, rfl, rfl⟩
theorem test_decode_family_E :
    decodeWord 0b1110_0100_1001_1110#16 = .ok (.skipIfKeyPressed 4) ∧
    decodeWord 0b1110_0100_1010_0001#16 = .ok (.skipIfKeyNotPressed 4) := ⟨rfl, rfl⟩
theorem test_decode_family_F_timers :
    decodeWord 0b1111_0010_0000_0111#16 = .ok (.loadDelayTimer 2) ∧
    decodeWord 0b1111_0011_0000_1010#16 = .ok (.waitForKey 3) ∧
    decodeWord 0b1111_0010_0001_0101#16 = .ok (.setDelayTimer 2) ∧
    decodeWord 0b1111_0010_0001_1000#16 = .ok (.setSoundTimer 2) := ⟨rfl, rfl, rfl, rfl⟩
theorem test_decode_family_F_memory :
    decodeWord 0b1111_0001_0001_1110#16 = .ok (.addToAddress 1) ∧
    decodeWord 0b1111_0010_0010_1001#16 = .ok (.loadFontAddress 2) ∧
    decodeWord 0b1111_0001_0011_0011#16 = .ok (.storeBcd 1) ∧
    decodeWord 0b1111_0010_0101_0101#16 = .ok (.storeRegisterBlock 2) ∧
    decodeWord 0b1111_0010_0110_0101#16 = .ok (.loadRegisterBlock 2) := ⟨rfl, rfl, rfl, rfl, rfl⟩
/-- V-S4 to V-S7. -/
theorem test_decode_invalid :
    decodeWord 0x5121#16 = .error (.invalidOpcode 0x5121) ∧ decodeWord 0x8128#16 = .error (.invalidOpcode 0x8128) ∧
    decodeWord 0xE49F#16 = .error (.invalidOpcode 0xE49F) ∧
    decodeWord 0xF1FF#16 = .error (.invalidOpcode 0xF1FF) := ⟨rfl, rfl, rfl, rfl⟩
/-- R61, R48: high byte first, the rest of the bytes returned, fewer than two refused. -/
theorem test_decode_bytes :
    decode [0x80, 0x14, 0x12] = .ok (.addReg 0 1, [0x12]) ∧ decode [0x80] = .error (.truncated 1) ∧
    decodeTableWord 16 0x8014 = some (.addReg 0 1) ∧ decodeTableWord 16 0x5AB1 = none := ⟨rfl, rfl, rfl, rfl⟩
/-- R73's two examples. -/
theorem test_encode : encodeBytes (.loadByte 1 0xFF) = [0x61, 0xFF] ∧ encodeBytes (.addReg 0 1) = [0x80, 0x14] := by decide

/-! ## Building small states -/

/-- The reset state with some registers set. -/
def withRegs (rs : List (RegIx × Byte)) : State := rs.foldl (fun s p => s.setReg p.1 p.2) State.reset

/-- One step on a word at `PC`; a fault leaves the state. -/
def ran (w : Nat) (s : State) : State := stateAfter (s.withFetchWord 16 w) (step (s.withFetchWord 16 w))

/-- The next state of a result. -/
def nextOf : Result → Option State
  | .next t => some t
  | .fault _ => none
  | .refused _ => none

/-- The fault of a result. -/
def faultOf : Result → Option Fault
  | .next _ => none
  | .fault f => some f
  | .refused _ => none

/-- `PC` and some registers. -/
def shows (t : State) (pc : Nat) (rs : List (RegIx × Byte)) : Bool := t.pc.toNat == pc && rs.all fun p => t.reg p.1 == p.2

/-! ## Step, dispatch, invalid opcodes -/

/-- V-S1, V-S2, V-S5. -/
theorem test_invalid_and_sys :
    (ran 0x0000 State.reset).pc = 0x202 ∧ (ran 0x0123 State.reset).pc = 0x202 ∧
    shows (ran 0x8128 (withRegs [(1, 7), (15, 9)])) 0x202 [(1, 7), (15, 9)] = true ∧
    report (State.reset.withFetchWord 16 0x0123) = .executedInvalid 0x0123 := by decide
/-- V-S8, V-S9, V-S10. -/
theorem test_halt_limit :
    (ran 0x0000 { State.reset with pc := 0xFFE }).pc = 0x1000 ∧ (ran 0x3000 { State.reset with pc := 0xFFE }).pc = 0x1002 ∧
    report { State.reset with pc := 0xFFF } = .halted ∧
    nextOf (step { State.reset with pc := 0xFFF }) = some { State.reset with pc := 0xFFF } := by decide
/-- V-S12, V-S13. -/
theorem test_key_resolving :
    nextOf (step { State.reset with kwBlocked := true, kwTarget := 15, key := some 0xA }) =
      some { (withRegs [(15, 0x0A)]) with kwTarget := 15, key := some 0xA } ∧
    report { State.reset with kwBlocked := true, kwTarget := 3, key := some 5, pc := 0xFFF } = .halted := by decide
/-- V-S14: an odd `PC`. -/
theorem test_odd_pc : shows (ran 0x612A { State.reset with pc := 0x201 }) 0x203 [(1, 0x2A)] = true := by decide

/-! ## Control flow -/

/-- V-C1, V-C2. -/
theorem test_return :
    (ran 0x00EE { (State.reset.push 0x202) with pc := 0x300 }).pc = 0x202 ∧
    (ran 0x00EE { (State.reset.push 0x202) with pc := 0x300 }).sp = 0 ∧
    faultOf (step (State.reset.withFetchWord 16 0x00EE)) = some (.stackUnderflow 0x200) := by decide
/-- V-C3, V-C4. -/
theorem test_jump : (ran 0x1ABC State.reset).pc = 0x0ABC ∧ (ran 0x1FFF State.reset).pc = 0x0FFF := by decide
/-- V-C7, V-C9. -/
theorem test_call :
    (ran 0x2300 { State.reset with sp := 14 }).slot 14 = some 0x202 ∧ (ran 0x2300 { State.reset with sp := 14 }).sp = 15 ∧
    (ran 0x2300 { State.reset with pc := 0xFFE }).slot 0 = some 0x1000 ∧ (ran 0x2300 State.reset).pc = 0x300 := by decide
/-- V-C8. -/
theorem test_call_overflow :
    faultOf (step ({ State.reset with sp := 15 }.withFetchWord 16 0x2300)) = some (.stackOverflow 0x200) := by decide
/-- V-C10 to V-C13. -/
theorem test_byte_skips :
    (ran 0x3210 (withRegs [(2, 0x10)])).pc = 0x204 ∧ (ran 0x3211 (withRegs [(2, 0x10)])).pc = 0x202 ∧
    (ran 0x4210 (withRegs [(2, 0x10)])).pc = 0x202 ∧ (ran 0x4211 (withRegs [(2, 0x10)])).pc = 0x204 := by decide
/-- V-C14 to V-C17. -/
theorem test_register_skips :
    (ran 0x5120 (withRegs [(1, 7), (2, 7)])).pc = 0x204 ∧ (ran 0x5120 (withRegs [(1, 7), (2, 8)])).pc = 0x202 ∧
    (ran 0x9120 (withRegs [(1, 7), (2, 8)])).pc = 0x204 ∧ (ran 0x9110 (withRegs [(1, 7)])).pc = 0x202 := by decide
/-- V-C18, V-C19. -/
theorem test_jump_with_offset :
    (ran 0xB300 (withRegs [(0, 4)])).pc = 0x304 ∧ (ran 0xBFFF (withRegs [(0, 0xFF)])).pc = 0x10FE := by decide

/-! ## Arithmetic, logic, shifts, random -/

/-- V-A2, V-A3, V-A4. -/
theorem test_byte_immediates :
    shows (ran 0x6F07 State.reset) 0x202 [(15, 7), (14, 0)] = true ∧
    shows (ran 0x7305 (withRegs [(3, 0xFE), (15, 0x55)])) 0x202 [(3, 3), (15, 0x55)] = true ∧
    shows (ran 0x7FFF (withRegs [(15, 1)])) 0x202 [(15, 0)] = true := by decide
/-- V-A5 to V-A9. -/
theorem test_move_and_logic :
    shows (ran 0x8140 (withRegs [(4, 0x2A)])) 0x202 [(1, 0x2A), (4, 0x2A)] = true ∧
    shows (ran 0x8121 (withRegs [(1, 0xF0), (2, 0x0F), (15, 0x55)])) 0x202 [(1, 0xFF), (15, 0x55)] = true ∧
    shows (ran 0x8122 (withRegs [(1, 0xF3), (2, 0x3C)])) 0x202 [(1, 0x30)] = true ∧
    shows (ran 0x8123 (withRegs [(1, 0xFF), (2, 0x0F)])) 0x202 [(1, 0xF0)] = true ∧
    shows (ran 0x8113 (withRegs [(1, 0x5A)])) 0x202 [(1, 0)] = true := by decide
/-- V-A10 to V-A13. -/
theorem test_add :
    shows (ran 0x8014 (withRegs [(0, 0xFF), (1, 0xFF)])) 0x202 [(0, 0xFE), (1, 0xFF), (15, 1)] = true ∧
    shows (ran 0x8124 (withRegs [(1, 0xF0), (2, 0x0F), (15, 1)])) 0x202 [(1, 0xFF), (15, 0)] = true ∧
    shows (ran 0x8124 (withRegs [(1, 0xF0), (2, 0x10)])) 0x202 [(1, 0), (15, 1)] = true ∧
    shows (ran 0x8114 (withRegs [(1, 0x81)])) 0x202 [(1, 2), (15, 1)] = true := by decide
/-- V-A14 to V-A16. -/
theorem test_add_flag_register :
    shows (ran 0x8F14 (withRegs [(15, 0xF0), (1, 0x20)])) 0x202 [(15, 0x10)] = true ∧
    shows (ran 0x81F4 (withRegs [(15, 0xF0), (1, 0x20)])) 0x202 [(1, 0x10), (15, 1)] = true ∧
    shows (ran 0x8FF4 (withRegs [(15, 0x90)])) 0x202 [(15, 0x20)] = true := by decide
/-- V-A17 to V-A21. -/
theorem test_sub :
    shows (ran 0x8125 (withRegs [(1, 7), (2, 5)])) 0x202 [(1, 2), (15, 1)] = true ∧
    shows (ran 0x8125 (withRegs [(1, 5), (2, 7)])) 0x202 [(1, 0xFE), (15, 0)] = true ∧
    shows (ran 0x8125 (withRegs [(1, 7), (2, 7), (15, 1)])) 0x202 [(1, 0), (15, 0)] = true ∧
    shows (ran 0x8F15 (withRegs [(15, 9), (1, 4)])) 0x202 [(15, 5)] = true := by decide
/-- V-A26 to V-A29. -/
theorem test_subtract_reversed :
    shows (ran 0x8127 (withRegs [(1, 5), (2, 7)])) 0x202 [(1, 2), (2, 7), (15, 1)] = true ∧
    shows (ran 0x8127 (withRegs [(1, 7), (2, 5)])) 0x202 [(1, 0xFE), (15, 0)] = true ∧
    shows (ran 0x8127 (withRegs [(1, 7), (2, 7), (15, 1)])) 0x202 [(1, 0), (15, 0)] = true ∧
    shows (ran 0x8F17 (withRegs [(15, 4), (1, 9)])) 0x202 [(15, 5)] = true := by decide
/-- V-A22 to V-A25. -/
theorem test_shift_right :
    shows (ran 0x8106 (withRegs [(1, 5)])) 0x202 [(1, 2), (15, 1)] = true ∧
    shows (ran 0x8126 (withRegs [(1, 4), (2, 0xFF)])) 0x202 [(1, 2), (2, 0xFF), (15, 0)] = true ∧
    shows (ran 0x8F06 (withRegs [(15, 7)])) 0x202 [(15, 3)] = true := by decide
/-- V-A30, V-A31, V-A33. -/
theorem test_shift_left :
    shows (ran 0x810E (withRegs [(1, 0x81)])) 0x202 [(1, 2), (15, 1)] = true ∧
    shows (ran 0x810E (withRegs [(1, 0x40)])) 0x202 [(1, 0x80), (15, 0)] = true ∧
    shows (ran 0x8F0E (withRegs [(15, 0xC1)])) 0x202 [(15, 0x82)] = true := by decide
/-- V-A34 to V-A36, the random byte fixed by the host. -/
theorem test_random_fixed :
    shows (ran 0xC30F { State.reset with rndInput := [0xA7] }) 0x202 [(3, 7)] = true ∧
    shows (ran 0xC3FF { State.reset with rndInput := [0x5A, 1] }) 0x202 [(3, 0x5A)] = true ∧
    (ran 0xC3FF { State.reset with rndInput := [0x5A, 1] }).rndInput = [1] := by decide
/-- The random byte free: what the spec fixes is `PC` and every other register. -/
theorem test_random_free :
    shows (ran 0xC3FF (withRegs [(4, 9)])) 0x202 [(4, 9), (2, 0)] = true ∧ (ran 0xC3FF State.reset).rndDraws = 1 := by decide

/-! ## Display -/

/-- A state with one sprite byte at 0x300, `I` there and coordinates in `V0`, `V1`. -/
def spriteState (b x y : Byte) : State := { (withRegs [(0, x), (1, y)]).setByte 0x300 b with i := 0x300 }

/-- V-D1 and V-D3. -/
theorem test_draw_rows_and_split :
    (ran 0xD015 State.reset).pixByte 0 = 0xF0 ∧ (ran 0xD015 State.reset).pixByte 24 = 0x90 ∧
    (ran 0xD015 State.reset).pixByte 32 = 0xF0 ∧
    (ran 0xD011 (spriteState 0xFF 4 0)).pixByte 0 = 0x0F ∧ (ran 0xD011 (spriteState 0xFF 4 0)).pixByte 1 = 0xF0 ∧
    shows (ran 0xD011 (spriteState 0xFF 4 0)) 0x202 [(15, 0)] = true := by decide
/-- V-D4, V-D5 (one row), V-D6, V-D7. -/
theorem test_draw_wrap_and_collision :
    (ran 0xD011 (spriteState 0xFF 124 63)).pixByte 255 = 0x0F ∧ (ran 0xD011 (spriteState 0xFF 124 63)).pixByte 248 = 0xF0 ∧
    shows (ran 0xD011 { spriteState 0xC0 1 2 with pix := (Pix.fill 0).setByte 2 0 0x40 }) 0x202 [(15, 1)] = true ∧
    (ran 0xD011 { spriteState 0xC0 1 2 with pix := (Pix.fill 0).setByte 2 0 0x40 }).pixByte 16 = 0x20 ∧
    shows (ran 0xD011 { (spriteState 0x80 1 2).setFlag 1 with pix := (Pix.fill 0).setByte 2 0 0x20 }) 0x202 [(15, 0)] = true := by decide
/-- V-D8, V-D9, V-D11. -/
theorem test_draw_corners :
    shows (ran 0xD010 { (withRegs [(15, 1)]) with i := 0x1000 }) 0x202 [(15, 0)] = true ∧
    faultOf (step ({ (withRegs [(15, 1)]) with i := 0xFFE }.withFetchWord 16 0xD013)) = some (.memOutOfRange 0x1000) ∧
    (ran 0xDFF1 ((spriteState 0x80 0 0).setFlag 9)).pixByte 73 = 0x40 := by decide
/-- V-D12. -/
theorem test_clear_display :
    (ran 0x00E0 { (withRegs [(15, 1)]) with pix := Pix.fill 0xFF }).pix = Pix.fill 0 ∧
    shows (ran 0x00E0 { (withRegs [(15, 1)]) with pix := Pix.fill 0xFF }) 0x202 [(15, 1)] = true := by decide

/-! ## Keys and timers -/

/-- V-K1 to V-K7. -/
theorem test_key_skips :
    (ran 0xE49E { (withRegs [(4, 7)]) with key := some 7 }).pc = 0x204 ∧ (ran 0xE49E { (withRegs [(4, 7)]) with key := some 8 }).pc = 0x202 ∧
    (ran 0xE49E (withRegs [(4, 7)])).pc = 0x202 ∧ (ran 0xE49E { (withRegs [(4, 0x17)]) with key := some 7 }).pc = 0x202 ∧
    (ran 0xE4A1 { (withRegs [(4, 7)]) with key := some 7 }).pc = 0x202 ∧ (ran 0xE4A1 (withRegs [(4, 7)])).pc = 0x204 ∧
    (ran 0xE4A1 { (withRegs [(4, 0x17)]) with key := some 7 }).pc = 0x204 := by decide
/-- V-K8, V-K9, V-K10. -/
theorem test_timers :
    shows (ran 0xF207 { State.reset with dt := 0x3C }) 0x202 [(2, 0x3C)] = true ∧ (ran 0xF207 { State.reset with dt := 0x3C }).dt = 0x3C ∧
    (ran 0xF215 (withRegs [(2, 0x3C)])).dt = 0x3C ∧ (ran 0xF215 (withRegs [(2, 0x3C)])).st = 0 ∧
    (ran 0xF218 (withRegs [(2, 5)])).st = 5 ∧ (ran 0xF218 (withRegs [(2, 5)])).soundActive = true := by decide
/-- V-K11. -/
theorem test_wait_for_key :
    (ran 0xF30A { State.reset with key := some 7 }).kwBlocked = true ∧ (ran 0xF30A { State.reset with key := some 7 }).kwTarget = 3 ∧
    shows (ran 0xF30A { State.reset with key := some 7 }) 0x202 [(3, 0)] = true := by decide
/-- V-K13, V-K14, and a tick at 0 (V-K12). -/
theorem test_tick_and_key_update :
    nextOf (handle { State.reset with dt := 0xFF, st := 1 } .tick) = some { State.reset with dt := 0xFE, st := 0 } ∧
    nextOf (handle State.reset .tick) = some State.reset ∧
    nextOf (handle { State.reset with key := some 3 } (.keyUpdate none)) = some State.reset := by decide

/-! ## Address register and memory -/

/-- V-M1 to V-M6. -/
theorem test_address_register :
    (ran 0xA2F0 State.reset).i = 0x2F0 ∧ (ran 0xF11E { (withRegs [(1, 5)]) with i := 0xFFE }).i = 0x1003 ∧
    (ran 0xF11E { (withRegs [(1, 1)]) with i := 0xFFFF }).i = 0 ∧ (ran 0xF229 (withRegs [(2, 0x0A)])).i = 0x32 ∧
    (ran 0xF229 { (withRegs [(2, 0x10)]) with i := 0x123 }).i = 0x123 ∧
    (ran 0xF229 { (withRegs [(2, 0x10)]) with i := 0x123 }).pc = 0x202 := by decide
/-- V-M7, V-M9. -/
theorem test_store_bcd :
    (ran 0xF133 { (withRegs [(1, 0xFF)]) with i := 0x300 }).bytesAt 0x300 3 = [2, 5, 5] ∧
    (ran 0xF133 { (withRegs [(1, 123)]) with i := 0xFFD }).bytesAt 0xFFD 3 = [1, 2, 3] ∧
    (ran 0xF133 { (withRegs [(1, 100)]) with i := 0x300 }).i = 0x300 := by decide
/-- V-M10, V-M11. -/
theorem test_store_bcd_out_of_range :
    faultOf (step ({ (withRegs [(1, 123)]) with i := 0xFFE }.withFetchWord 16 0xF133)) = some (.memOutOfRange 0x1000) ∧
    faultOf (step ({ (withRegs [(1, 123)]) with i := 0xFFFF }.withFetchWord 16 0xF133)) = some (.memOutOfRange 0xFFFF) := by decide
/-- V-M12, V-M13, V-M14. -/
theorem test_store_block :
    (ran 0xF255 { (withRegs [(0, 0x11), (1, 0x22), (2, 0x33), (3, 0x44)]) with i := 0x400 }).bytesAt 0x400 4 = [0x11, 0x22, 0x33, 0] ∧
    (ran 0xF055 { (withRegs [(0, 0x11)]) with i := 0xFFF }).byteAt 0xFFF = 0x11 ∧
    faultOf (step ({ (withRegs [(0, 0x11)]) with i := 0xFFF }.withFetchWord 16 0xF155)) = some (.memOutOfRange 0x1000) := by decide
/-- V-M17, V-M18 (its last registers), V-M19. -/
theorem test_load_block :
    shows (ran 0xF165 { (withRegs [(2, 0x77)]).setBytes 0x400 [0xAA, 0xBB, 0xCC] with i := 0x400 }) 0x202
      [(0, 0xAA), (1, 0xBB), (2, 0x77)] = true ∧
    shows (ran 0xFF65 State.reset) 0x202 [(0, 0xF0), (4, 0xF0), (5, 0x20), (13, 0x80), (15, 0xF0)] = true ∧
    faultOf (step ({ State.reset with i := 0xFFF }.withFetchWord 16 0xF165)) = some (.memOutOfRange 0x1000) := by decide

/-! ## Load, Reset -/

/-- V-L1, V-L2, V-L3. -/
theorem test_load :
    faultOf (handle State.reset (.load [1, 2, 3] 4094)) = some (.loadTooLarge 4094 3) ∧
    (after State.reset (.load [1, 2] 4094)).bytesAt 4094 2 = [1, 2] ∧
    nextOf (handle State.reset (.load [] 4096)) = some State.reset := by decide
/-- V-L5. -/
theorem test_reset :
    nextOf (handle { (withRegs [(1, 7)]).setByte 0x200 0x60 with pc := 0x300 } .reset) = some State.reset ∧
    State.reset.bytesAt 0 5 = [0xF0, 0x90, 0x90, 0x90, 0xF0] ∧ State.reset.byteAt 0x200 = 0 := by decide
/-- Memory keeps its canonical form: writing back the reset contents takes the entry off the list. -/
theorem test_memory_canonical :
    ((State.reset.setByte 0x300 7).setByte 0x300 0).mem = [] ∧ ((State.reset.setByte 0 7).setByte 0 0xF0).mem = [] ∧
    ((State.reset.setByte 0x300 7).setByte 0x200 1).mem = [(0x200, 1), (0x300, 7)] := by decide
/-- R168. -/
theorem test_fault_codes :
    (Fault.memOutOfRange 4096).code = 1 ∧ (Fault.stackOverflow 0).code = 2 ∧ (Fault.stackUnderflow 0).code = 3 ∧
    (Fault.loadTooLarge 0 0).code = 4 := by decide

/-! ## The assembler text (R72 to R74) -/

/-- Program P1. -/
theorem test_assemble_own_names :
    assemble ["load-byte V0, 0xFF", "load-byte V1, 0xFF", "add V0, V1"] = some [0x60, 0xFF, 0x61, 0xFF, 0x80, 0x14] := by decide
/-- Labels, comments, `.byte`, the short names, and what is refused. -/
theorem test_assemble_other_forms :
    assemble ["here: JP here ; loop"] = some [0x12, 0x00] ∧ assemble [".byte 0xF0, 1"] = some [0xF0, 0x01] ∧
    assemble ["LD V2, [I]"] = some [0xF2, 0x65] ∧ assemble ["SHR V1"] = some [0x81, 0x06] ∧
    assemble ["sys 0x0E0"] = none ∧ assemble ["load-byte V0, 256"] = none := by decide
/-- The readings of log entry 21: both spellings of `store-BCD`, a label before data, digits in either case, a label's name without blanks. -/
theorem test_assemble_choices :
    assemble ["store-BCD V0"] = some [0xF0, 0x33] ∧ assemble ["store-bcd V0"] = some [0xF0, 0x33] ∧
    assemble ["LD I, dot", "dot: .byte 0x8F, 0x1e"] = some [0xA2, 0x02, 0x8F, 0x1E] ∧
    assemble ["add V1, V0 loop:"] = none ∧ assemble [": add V1, V0"] = none := by decide

/-! ## Witnesses: for each statement with hypotheses, a concrete state and operands that meet all of them -/

/-- The reset state at a `PC`. -/
def atPc (pc : Word) : State := { State.reset with pc := pc }

/-- The reset state with an `I`. -/
def atI (i : Word) : State := { State.reset with i := i }

/-- A blocked state at a `PC`. -/
def waiting (pc : Word) (k : Option Digit) : State := { State.reset with pc := pc, kwBlocked := true, kwTarget := 3, key := k }

theorem witness_LoadCopiesTheBytesOrFaults :
    State.reset.mem.wf ∧ (4094 + [1, 2].length ≤ 4096) ∧ (4096 < 4094 + [1, 2, 3].length) := by decide

theorem witness_BootRunsTheFirstLoadedInstruction :
    (List.replicate 3582 (0 : Byte)).length + 2 ≤ 3584 ∧ decodeWord (joinBytes 0x60 0xFF) = .ok (.loadByte 0 0xFF) :=
  ⟨by have := List.length_replicate (n := 3582) (a := (0 : Byte)); omega, rfl⟩

theorem witness_StepRunsTheDecodedInstruction :
    Fetches ((atPc 4094).withFetchWord 16 0x8014) ∧
    decodeWord ((atPc 4094).withFetchWord 16 0x8014).fetched = .ok (.addReg 0 1) := ⟨⟨by decide, rfl⟩, rfl⟩

/-- Both kinds of invalid word: one of family 5, and one of family 0 (at the last `PC` that fetches). -/
theorem witness_InvalidOpcodeOnlyAdvances :
    (Fetches (State.reset.withFetchWord 16 0x5AB1) ∧
      ∀ o ∈ tabulated, (State.reset.withFetchWord 16 0x5AB1).fetched &&& (opcodeRow o).mask ≠ (opcodeRow o).bits) ∧
    (Fetches (atPc 4094) ∧ ∀ o ∈ tabulated, (atPc 4094).fetched &&& (opcodeRow o).mask ≠ (opcodeRow o).bits) :=
  ⟨⟨⟨by decide, rfl⟩, by decide⟩, ⟨by decide, rfl⟩, by decide⟩

theorem witness_HaltedAndBlockedStepsChangeNothing :
    4094 < (waiting 4095 (some 5)).pc.toNat ∧
    ((waiting 4094 none).pc.toNat ≤ 4094 ∧ (waiting 4094 none).kwBlocked = true ∧ (waiting 4094 none).key = none) := by decide

theorem witness_BlockedStepWithKeyResolves :
    (waiting 4094 (some 0xA)).pc.toNat ≤ 4094 ∧ (waiting 4094 (some 0xA)).kwBlocked = true ∧
    (waiting 4094 (some 0xA)).key = some 0xA := by decide

/-- One state for each of the three clauses. -/
theorem witness_FetchingStepReportsItsOutcome :
    (Fetches (State.reset.withFetchWord 16 0x1200) ∧ decodeWord (State.reset.withFetchWord 16 0x1200).fetched = .ok (.jump 0x200) ∧
      (∃ t, exec (.jump 0x200) (State.reset.withFetchWord 16 0x1200) = .next t) ∧ ∀ nnn, Instr.jump 0x200 ≠ .sys nnn) ∧
    (Fetches State.reset ∧ decodeWord State.reset.fetched = .ok (.sys 0)) ∧
    (Fetches (State.reset.withFetchWord 16 0x00EE) ∧ decodeWord (State.reset.withFetchWord 16 0x00EE).fetched = .ok .ret ∧
      exec .ret (State.reset.withFetchWord 16 0x00EE) = .fault (.stackUnderflow 0x200)) :=
  ⟨⟨⟨by decide, rfl⟩, rfl, ⟨_, rfl⟩, nofun⟩, ⟨⟨by decide, rfl⟩, rfl⟩, ⟨by decide, rfl⟩, rfl, rfl⟩

theorem witness_StepEventFeedsItsRandomByte :
    Fetches (State.reset.withFetchWord 16 0xC30F) ∧
    decodeWord (State.reset.withFetchWord 16 0xC30F).fetched = .ok (.randomAndMask 3 0x0F) := ⟨⟨by decide, rfl⟩, rfl⟩

/-- Both ends of the block: one register after the first, and all sixteen up to the last byte of memory. -/
theorem witness_StoreIsSeenByTheNextFetch :
    ((atI 0x202).mem.wf ∧ 1 ≤ (1 : RegIx).toNat ∧ (atI 0x202).i = (atI 0x202).pc + 2 ∧ (atI 0x202).i.toNat + (1 : RegIx).toNat < 4096) ∧
    (let s := { atI 4080 with pc := 4078 }
     s.mem.wf ∧ 1 ≤ (15 : RegIx).toNat ∧ s.i = s.pc + 2 ∧ s.i.toNat + (15 : RegIx).toNat < 4096) := by decide

theorem witness_CallPushesTheAddressAfterIt : ({ State.reset with sp := 14 } : State).sp.toNat < 15 := by decide

theorem witness_ReturnPopsTheStack :
    (1 ≤ (State.reset.push 0x202).sp.toNat ∧ (State.reset.push 0x202).sp.toNat ≤ 16) ∧
    (1 ≤ ({ State.reset with sp := 16 } : State).sp.toNat ∧ ({ State.reset with sp := 16 } : State).sp.toNat ≤ 16) := by decide

theorem witness_StackLimitsFault :
    15 ≤ ({ State.reset with sp := 15 } : State).sp.toNat ∧ State.reset.sp.toNat = 0 := by decide

/-- The body may change everything but `SP` and the stack: here it has moved `PC`. -/
theorem witness_CallThenReturnComesBack :
    State.reset.sp.toNat < 15 ∧
    ∃ t, exec (.call 0x300) State.reset = .next t ∧ ({ t with pc := 0x310 } : State).sp = t.sp ∧
      ({ t with pc := 0x310 } : State).stack = t.stack := ⟨by decide, _, rfl, rfl, rfl⟩

/-- For the flag clauses of `add`, the subtractions and the shifts: the register next to the flag register. -/
theorem witness_flag_clauses : (14 : RegIx) ≠ 15 := by decide

theorem witness_RandomByteIsMasked :
    ({ State.reset with rndInput := [0xA7, 1] } : State).rndInput = 0xA7 :: [1] ∧ State.reset.rndInput = [] := by decide

theorem witness_AddThenSubRestores : (0 : RegIx) ≠ 14 ∧ (0 : RegIx) ≠ 15 ∧ (14 : RegIx) ≠ 15 := by decide

/-- No rows with `I` out of memory, and the last row at the last byte. -/
theorem witness_DrawSpriteXorsPixelByPixel :
    ((0 : Count) = 0 ∨ (atI 4096).base + (0 : Count).toNat ≤ 4096) ∧
    ((1 : Count) = 0 ∨ (atI 4095).base + (1 : Count).toNat ≤ 4096) := by decide

/-- A pixel under the sprite at the left edge, reached by the wrap from column 60; a lit one and an unlit one. -/
theorem witness_DrawSpriteXorsPixelByPixel_covered :
    Covers (spriteState 0xFF 60 31) 0 1 1 3 31 ∧ (spriteState 0xFF 60 31).pix.pixel 3 31 = false ∧
    Covers { spriteState 0xFF 60 31 with pix := Pix.fill 0xFF } 0 1 1 3 31 ∧
    ({ spriteState 0xFF 60 31 with pix := Pix.fill 0xFF } : State).pix.pixel 3 31 = true :=
  ⟨⟨0, 7, by decide, by decide, by decide, by decide, by decide⟩, by decide,
    ⟨0, 7, by decide, by decide, by decide, by decide, by decide⟩, by decide⟩

/-- A pixel not under the sprite: a sprite of no rows covers none. -/
theorem witness_DrawSpriteXorsPixelByPixel_uncovered : ¬ Covers (atI 4096) 0 1 0 63 31 := by
  rintro ⟨r, _, h, _⟩
  exact absurd h (Nat.not_lt_zero r)

theorem witness_DrawingTwiceRestoresThePixels :
    (0 : RegIx) ≠ 15 ∧ (14 : RegIx) ≠ 15 ∧ ((15 : Count) = 0 ∨ (atI 4081).base + (15 : Count).toNat ≤ 4096) := by decide

theorem witness_KeySkipsTestTheHeldKey :
    (∃ k, ({ withRegs [(4, 15)] with key := some 15 } : State).key = some k ∧ ((withRegs [(4, 15)]).reg 4).toNat = k.toNat) ∧
    (¬ ∃ k, ({ withRegs [(4, 16)] with key := some 0 } : State).key = some k ∧ ((withRegs [(4, 16)]).reg 4).toNat = k.toNat) ∧
    (¬ ∃ k, (withRegs [(4, 0)]).key = some k ∧ ((withRegs [(4, 0)]).reg 4).toNat = k.toNat) := by
  refine ⟨⟨15, rfl, by decide⟩, ?_, ?_⟩
  · rintro ⟨k, h, e⟩; cases h; revert e; decide
  · rintro ⟨k, h, _⟩; cases h

theorem witness_WaitForKeyScenario :
    (atPc 4092).pc.toNat ≤ 4092 ∧ (atPc 4092).key = none ∧ ∃ t, exec (.waitForKey 3) (atPc 4092) = .next t :=
  ⟨by decide, rfl, _, rfl⟩

theorem witness_LoadFontAddressPointsAtTheGlyph :
    ((withRegs [(2, 15)]).reg 2).toNat ≤ 15 ∧ 15 < ((withRegs [(2, 16)]).reg 2).toNat := by decide

theorem witness_StoreBcdStoresThreeDigits : (atI 4093).mem.wf ∧ (atI 4093).base + 3 ≤ 4096 := by decide

theorem witness_StoreBlockStoresTheRegisters :
    ((atI 4080).mem.wf ∧ (atI 4080).base + blockSize 15 ≤ 4096) ∧ ((atI 4095).mem.wf ∧ (atI 4095).base + blockSize 0 ≤ 4096) := by
  decide

theorem witness_LoadBlockLoadsTheRegisters :
    ((atI 4080).base + blockSize 15 ≤ 4096 ∧ (15 : RegIx).toNat ≤ (15 : RegIx).toNat) ∧
    ((atI 4095).base + blockSize 0 ≤ 4096 ∧ (0 : RegIx).toNat < (1 : RegIx).toNat) := by decide

theorem witness_AccessPastTheEndFaults :
    4096 < (atI 4094).base + 3 ∧ 4096 < (atI 4095).base + blockSize 1 ∧ 4096 < (atI 4096).base + blockSize 0 ∧
    ((1 : Count) ≠ 0 ∧ 4096 < (atI 4096).base + (1 : Count).toNat) := by decide

theorem witness_LoadBlockThenStoreBlockIsIdentity : (atI 4080).mem.wf ∧ (atI 4080).base + blockSize 15 ≤ 4096 := by decide

/-- `sys` meets the hypothesis of every clause at once. -/
theorem witness_EachPieceHasItsWriters :
    (∃ t, exec (.sys 0) State.reset = .next t) ∧ (Instr.sys 0).opcode = .sys := ⟨⟨_, rfl⟩, rfl⟩

/-- A flag writer with a register that is neither destination nor flag, and another instruction with the flag register. -/
theorem witness_OnlyDestinationsAndTheFlagChange :
    ((∃ t, exec (.addReg 1 2) State.reset = .next t) ∧ 2 ∉ destinations (.addReg 1 2) ∧
      (writesFlag (.addReg 1 2) = true → (2 : RegIx) ≠ 15)) ∧
    ((∃ t, exec (.loadByte 1 2) State.reset = .next t) ∧ 15 ∉ destinations (.loadByte 1 2) ∧
      (writesFlag (.loadByte 1 2) = true → (15 : RegIx) ≠ 15)) :=
  ⟨⟨⟨_, rfl⟩, by decide, by decide⟩, ⟨_, rfl⟩, by decide, by decide⟩

/-- One faulting state for each of the six instructions, at the nearest limit. -/
theorem witness_OnlySixInstructionsFault :
    faultOf (exec (.call 0) { State.reset with sp := 15 }) = some (.stackOverflow 0x200) ∧
    faultOf (exec .ret State.reset) = some (.stackUnderflow 0x200) ∧
    faultOf (exec (.drawSprite 0 0 2) (atI 4095)) = some (.memOutOfRange 4096) ∧
    faultOf (exec (.storeBcd 0) (atI 4094)) = some (.memOutOfRange 4096) ∧
    faultOf (exec (.storeRegisterBlock 1) (atI 4095)) = some (.memOutOfRange 4096) ∧
    faultOf (exec (.loadRegisterBlock 1) (atI 65535)) = some (.memOutOfRange 65535) := by decide

theorem witness_FaultComesAgain :
    step (State.reset.withFetchWord 16 0x00EE) = .fault (.stackUnderflow 0x200) ∧
    NoReload [.tick, .observe, .keyUpdate (some 7), .step 0xFF] := ⟨rfl, by simp [NoReload]⟩

theorem witness_OnlyResetLeavesTheHaltedState :
    4094 < (atPc 4095).pc.toNat ∧ (∀ e ∈ [Event.load [1] 0, .step 0, .tick], e ≠ .reset) ∧ NoReload [.step 0, .tick] :=
  ⟨by decide, by decide, by simp [NoReload]⟩

theorem witness_BlockedCoreKeepsItsState :
    (waiting 0x202 none).kwBlocked = true ∧ (waiting 0x202 none).key = none ∧
    ∀ e ∈ [Event.tick, .observe, .keyUpdate none, .step 0], e = .tick ∨ e = .observe ∨ e = .keyUpdate none ∨ ∃ r, e = .step r := by
  refine ⟨rfl, rfl, ?_⟩
  intro e h
  simp only [List.mem_cons, List.not_mem_nil, or_false] at h
  rcases h with rfl | rfl | rfl | rfl <;> simp

/-- A state far from reset: memory written, a live return address, `PC` at the last address that fetches. -/
def busy : State := { State.reset with pc := 4094, sp := 1, stack := (Vector.replicate 16 0).set 0 0x202, mem := [(0x300, 7)] }

/-- The other end of the ranges: halted, the stack full. -/
def full : State := { State.reset with pc := 4350, sp := 15, stack := (Vector.replicate 16 0x1000).set 15 0 }

theorem inv_busy : Inv busy := by
  have h : ∀ j, j < 1 → busy.slot j = some 0x202 := by decide
  refine ⟨by decide, by decide, by decide, ?_, by decide⟩
  intro j hj ret hr
  rw [h j hj] at hr
  cases hr
  decide

theorem inv_full : Inv full := by
  have h : ∀ j, j < 15 → full.slot j = some 0x1000 := by decide
  refine ⟨by decide, by decide, by decide, ?_, by decide⟩
  intro j hj ret hr
  rw [h j hj] at hr
  cases hr
  decide

theorem witness_StepKeepsTheInvariant : Inv busy ∧ ∃ t, step busy = .next t := ⟨inv_busy, _, rfl⟩

theorem witness_EventsKeepTheInvariant : Inv busy ∧ Inv full := ⟨inv_busy, inv_full⟩

theorem witness_DecodeOfEncode : WellFormed (.sys 0x0EF) ∧ WellFormed (.drawSprite 15 15 15) ∧ WellFormed .ret := by decide

theorem witness_EncodeOfDecode : decodeWord 0x8FFE#16 = .ok (.shiftLeft 15 15) := rfl

theorem witness_RowsSelectByMaskAndMatch :
    (Opcode.addReg ∈ tabulated ∧ 0x8014#16 &&& (opcodeRow .addReg).mask = (opcodeRow .addReg).bits) ∧
    (decodeWord 0x8014#16 = .ok (.addReg 0 1) ∧ (Instr.addReg 0 1).opcode = .addReg) := ⟨by decide, rfl, rfl⟩

/-- An invalid word next to a valid one, and the words of family 0 next to `00E0` and `00EE`. -/
theorem witness_InvalidWordsByFamily :
    decodeWord 0x5FFF#16 = .error (.invalidOpcode 0x5FFF) ∧
    ((0x0E1 : Addr12) ≠ 0x0E0 ∧ (0x0E1 : Addr12) ≠ 0x0EE) ∧ ((0x0EF : Addr12) ≠ 0x0E0 ∧ (0x0EF : Addr12) ≠ 0x0EE) :=
  ⟨rfl, by decide, by decide⟩

end Sys2Proof.Tests
end

namespace Sys2Proof

open Sys2Proof.Machine

/-! ## Frames of the program-counter operations

`PC` is no `Piece`, so moving it keeps any frame. -/

theorem Frame.refl (changed : List Piece) (s : State) : Frame changed s s := by
  constructor <;> simp

theorem Frame.jumpTo {changed : List Piece} {s t : State} (h : Frame changed s t) (w : Word) :
    Frame changed s (t.jumpTo w) :=
  { h with }

theorem Frame.advance {changed : List Piece} {s t : State} (h : Frame changed s t) : Frame changed s t.advance :=
  h.jumpTo t.nextPc

theorem Frame.skipIf {changed : List Piece} {s t : State} (h : Frame changed s t) (c : Bool) :
    Frame changed s (t.skipIf c) := by
  cases c with
  | true => exact h.jumpTo t.skipPc
  | false => exact h.advance

end Sys2Proof

namespace Sys2Proof.Machine

/-! ## Targets -/

@[simp] theorem toNat_zextAddr (nnn : Addr12) : (zextAddr nnn).toNat = nnn.toNat :=
  BitVec.toNat_setWidth_of_le (by decide)

/-- Where a skip goes, in terms of the proposition its Boolean condition decides (R88). -/
theorem State.skipIf_pc_of_iff (s : State) {c : Bool} {p : Prop} [Decidable p] (h : c = true ↔ p) :
    (s.skipIf c).pc = if p then s.pc + 4 else s.pc + 2 := by
  rw [State.skipIf_pc, apply_ite (s.pc + ·)]
  exact if_congr h rfl rfl

/-! ## The instructions (41_control_flow.md) -/

theorem exec_jump (nnn : Addr12) (s : State) : exec (.jump nnn) s = .next (s.jumpTo (zextAddr nnn)) := rfl

theorem exec_skipEqualByte (x : RegIx) (kk : Byte) (s : State) :
    exec (.skipEqualByte x kk) s = .next (s.skipIf (s.reg x == kk)) := rfl

theorem exec_skipNotEqualByte (x : RegIx) (kk : Byte) (s : State) :
    exec (.skipNotEqualByte x kk) s = .next (s.skipIf (s.reg x != kk)) := rfl

theorem exec_skipEqualReg (x y : RegIx) (s : State) :
    exec (.skipEqualReg x y) s = .next (s.skipIf (s.reg x == s.reg y)) := rfl

theorem exec_skipNotEqualReg (x y : RegIx) (s : State) :
    exec (.skipNotEqualReg x y) s = .next (s.skipIf (s.reg x != s.reg y)) := rfl

/-- The one argument about every skip: an instruction that runs as `skipIf` on a test of `p` moves `PC` by 4 or by 2 and keeps all else. -/
theorem exec_skip_spec {s : State} {i : Instr} {c : Bool} {p : Prop} [Decidable p] (he : exec i s = .next (s.skipIf c))
    (hc : c = true ↔ p) :
    ∃ t, exec i s = .next t ∧ t.pc = (if p then s.pc + 4 else s.pc + 2) ∧ Frame [] s t :=
  ⟨s.skipIf c, he, s.skipIf_pc_of_iff hc, (Frame.refl [] s).skipIf c⟩

/-! ## The obligations of 41_control_flow.md -/

/-- Settles O14: `jumpTo` moves `PC` alone, and a 12-bit address keeps its value as a word. -/
theorem jumpGoesToItsAddress : Obligations.JumpGoesToItsAddress := by
  intro s nnn
  exact ⟨s.jumpTo (zextAddr nnn), exec_jump nnn s, toNat_zextAddr nnn, (Frame.refl [] s).jumpTo _⟩

/-- Settles O19: both are skips, testing equality and its negation with the immediate. -/
theorem byteSkipsTestARegister : Obligations.ByteSkipsTestARegister := by
  intro s x kk
  exact ⟨exec_skip_spec (exec_skipEqualByte x kk s) beq_iff_eq,
    exec_skip_spec (exec_skipNotEqualByte x kk s) bne_iff_ne⟩

/-- Settles O20: both are skips, testing equality and its negation of two registers. -/
theorem registerSkipsCompareTwoRegisters : Obligations.RegisterSkipsCompareTwoRegisters := by
  intro s x y
  exact ⟨exec_skip_spec (exec_skipEqualReg x y s) beq_iff_eq,
    exec_skip_spec (exec_skipNotEqualReg x y s) bne_iff_ne⟩

end Sys2Proof.Machine

namespace Sys2Proof

open Sys2Proof.Machine

/-! ## The frame of a register write -/

theorem Frame.setReg {changed : List Piece} {s t : State} {x : RegIx} (h : Frame changed s t)
    (hx : Piece.reg x ∈ changed) (b : Byte) : Frame changed s (t.setReg x b) :=
  { h with
    regs := fun y hy => by
      have hne : y ≠ x := fun heq => hy (heq ▸ hx)
      rw [State.reg_setReg, if_neg hne, h.regs y hy] }

end Sys2Proof

namespace Sys2Proof.Machine

/-! ## The instructions that write one register and no flag (42_arithmetic_logic.md) -/

theorem exec_loadByte (x : RegIx) (kk : Byte) (s : State) : exec (.loadByte x kk) s = .next (s.setReg x kk).advance := rfl

theorem exec_addByte (x : RegIx) (kk : Byte) (s : State) :
    exec (.addByte x kk) s = .next (s.setReg x (s.reg x + kk)).advance := rfl

theorem exec_orReg (x y : RegIx) (s : State) :
    exec (.orReg x y) s = .next (s.setReg x (s.reg x ||| s.reg y)).advance := rfl

theorem exec_andReg (x y : RegIx) (s : State) :
    exec (.andReg x y) s = .next (s.setReg x (s.reg x &&& s.reg y)).advance := rfl

theorem exec_xorReg (x y : RegIx) (s : State) :
    exec (.xorReg x y) s = .next (s.setReg x (s.reg x ^^^ s.reg y)).advance := rfl

/-- The one argument about every instruction that runs as one register write and `advance`: the register holds the byte, `PC` moves by 2,
all else is kept. -/
theorem exec_setReg_spec {s : State} {i : Instr} {x : RegIx} {b : Byte} (he : exec i s = .next (s.setReg x b).advance) :
    ∃ t, exec i s = .next t ∧ t.reg x = b ∧ t.pc = s.pc + 2 ∧ Frame [.reg x] s t := by
  have hreg : (s.setReg x b).advance.reg x = b := by simp
  exact ⟨_, he, hreg, rfl, ((Frame.refl [.reg x] s).setReg List.mem_cons_self b).advance⟩

/-! ## The obligations of 42_arithmetic_logic.md without a flag -/

/-- Settles O22: both write one register; the byte sum is the sum of the naturals modulo 256. -/
theorem byteImmediatesWriteOneRegister : Obligations.ByteImmediatesWriteOneRegister := by
  intro s x kk
  refine ⟨exec_setReg_spec (exec_loadByte x kk s), ?_⟩
  obtain ⟨t, he, hreg, hpc, hframe⟩ := exec_setReg_spec (exec_addByte x kk s)
  exact ⟨t, he, hreg ▸ BitVec.toNat_add _ _, hpc, hframe⟩

/-- Settles O24: all three write one register, with the operation of the bit vectors, which acts on each bit. -/
theorem logicWorksBitByBit : Obligations.LogicWorksBitByBit := by
  intro s x y
  refine ⟨?or, ?and, ?xor⟩
  case or =>
    obtain ⟨t, he, hreg, hpc, hframe⟩ := exec_setReg_spec (exec_orReg x y s)
    exact ⟨t, he, fun _ => hreg ▸ BitVec.getLsbD_or, hpc, hframe⟩
  case and =>
    obtain ⟨t, he, hreg, hpc, hframe⟩ := exec_setReg_spec (exec_andReg x y s)
    exact ⟨t, he, fun _ => hreg ▸ BitVec.getLsbD_and, hpc, hframe⟩
  case xor =>
    obtain ⟨t, he, hreg, hpc, hframe⟩ := exec_setReg_spec (exec_xorReg x y s)
    exact ⟨t, he, fun _ => hreg ▸ BitVec.getLsbD_xor, hpc, hframe⟩

end Sys2Proof.Machine

namespace Sys2Proof

open Sys2Proof.Machine

/-! ## The frame of a new pixel buffer -/

theorem Frame.withPix {changed : List Piece} {s t : State} (h : Frame changed s t) (hpix : Piece.pix ∈ changed)
    (new : Pix) : Frame changed s { t with pix := new } :=
  { h with pix := fun hnot => absurd hpix hnot }

end Sys2Proof

namespace Sys2Proof.Machine

/-! ## Clearing the display (43_display.md R132) -/

theorem exec_clearDisplay (s : State) :
    exec .clearDisplay s = .next ({ s with pix := Pix.fill 0 } : State).advance := rfl

/-- Settles O30: the new buffer is filled with zero bytes, and neither it nor `advance` touches another piece of state. -/
theorem clearDisplayZeroesThePixels : Obligations.ClearDisplayZeroesThePixels := by
  intro s
  have hzero : ∀ a, ({ s with pix := Pix.fill 0 } : State).advance.pixByte a = 0 := fun a =>
    Pix.byte_fill 0 (a / 8) (a % 8)
  have hframe : Frame [.pix] s ({ s with pix := Pix.fill 0 } : State).advance :=
    ((Frame.refl [.pix] s).withPix List.mem_cons_self (Pix.fill 0)).advance
  exact ⟨_, exec_clearDisplay s, hzero, State.advance_pc _, hframe⟩

end Sys2Proof.Machine

namespace Sys2Proof

open Sys2Proof.Machine

/-! ## The frames of a timer write and of a key report -/

theorem Frame.withDt {changed : List Piece} {s t : State} (h : Frame changed s t) (hdt : Piece.dt ∈ changed)
    (b : Byte) : Frame changed s { t with dt := b } :=
  { h with dt := fun hnot => absurd hdt hnot }

theorem Frame.withSt {changed : List Piece} {s t : State} (h : Frame changed s t) (hst : Piece.st ∈ changed)
    (b : Byte) : Frame changed s { t with st := b } :=
  { h with st := fun hnot => absurd hst hnot }

theorem Frame.keyUpdate {changed : List Piece} {s t : State} (h : Frame changed s t) (hkey : Piece.key ∈ changed)
    (k : Option Digit) : Frame changed s (keyUpdate k t) :=
  { h with key := fun hnot => absurd hkey hnot }

end Sys2Proof

namespace Sys2Proof.Machine

/-! ## The timer instructions and `KeyUpdate` (44_timers_and_keys.md) -/

theorem exec_loadDelayTimer (x : RegIx) (s : State) :
    exec (.loadDelayTimer x) s = .next (s.setReg x s.dt).advance := rfl

theorem exec_setDelayTimer (x : RegIx) (s : State) :
    exec (.setDelayTimer x) s = .next ({ s with dt := s.reg x } : State).advance := rfl

theorem exec_setSoundTimer (x : RegIx) (s : State) :
    exec (.setSoundTimer x) s = .next ({ s with st := s.reg x } : State).advance := rfl

theorem handle_keyUpdate (s : State) (k : Option Digit) : handle s (.keyUpdate k) = .next (keyUpdate k s) := rfl

@[simp] theorem after_keyUpdate (s : State) (k : Option Digit) : after s (.keyUpdate k) = keyUpdate k s := rfl

/-- A later report replaces an earlier one, nothing of which is left (R150). -/
@[simp] theorem keyUpdate_keyUpdate (s : State) (k k' : Option Digit) :
    keyUpdate k' (keyUpdate k s) = keyUpdate k' s := rfl

/-! ## The obligations of 44_timers_and_keys.md on the timers and the key latch -/

/-- Settles O5: the event runs as `keyUpdate`, which writes the latch alone, and a second report overwrites the first. -/
theorem keyUpdateSetsTheLatch : Obligations.KeyUpdateSetsTheLatch := by
  intro s k
  have hframe : Frame [.key] s (keyUpdate k s) := (Frame.refl [.key] s).keyUpdate List.mem_cons_self k
  have hlast : ∀ k', after (keyUpdate k s) (.keyUpdate k') = after s (.keyUpdate k') := fun k' => by simp
  exact ⟨_, handle_keyUpdate s k, keyUpdate_key s k, keyUpdate_pc s k, hframe, hlast⟩

/-- Settles O34: reading `DT` is one register write; each of the other two writes its own timer alone. -/
theorem timerInstructionsMoveTimers : Obligations.TimerInstructionsMoveTimers := by
  intro s x
  refine ⟨exec_setReg_spec (exec_loadDelayTimer x s), ?delay, ?sound⟩
  case delay =>
    have hframe : Frame [.dt] s ({ s with dt := s.reg x } : State).advance :=
      ((Frame.refl [.dt] s).withDt List.mem_cons_self (s.reg x)).advance
    exact ⟨_, exec_setDelayTimer x s, State.advance_dt _, State.advance_pc _, hframe⟩
  case sound =>
    have hframe : Frame [.st] s ({ s with st := s.reg x } : State).advance :=
      ((Frame.refl [.st] s).withSt List.mem_cons_self (s.reg x)).advance
    exact ⟨_, exec_setSoundTimer x s, State.advance_st _, State.advance_pc _, hframe⟩

end Sys2Proof.Machine

namespace Sys2Proof

open Sys2Proof.Machine

/-! ## The frame of an address-register write -/

theorem Frame.withI {changed : List Piece} {s t : State} (h : Frame changed s t) (hi : Piece.i ∈ changed)
    (w : Word) : Frame changed s { t with i := w } :=
  { h with i := fun hnot => absurd hi hnot }

end Sys2Proof

namespace Sys2Proof.Machine

@[simp] theorem toNat_zextByte (b : Byte) : (zextByte b).toNat = b.toNat :=
  BitVec.toNat_setWidth_of_le (by decide)

/-! ## The instructions that write the address register (45_address_and_memory.md) -/

theorem exec_loadAddress (nnn : Addr12) (s : State) :
    exec (.loadAddress nnn) s = .next ({ s with i := zextAddr nnn } : State).advance := rfl

theorem exec_addToAddress (x : RegIx) (s : State) :
    exec (.addToAddress x) s = .next ({ s with i := s.i + zextByte (s.reg x) } : State).advance := rfl

/-- The one argument about every instruction that runs as one write of `I` and `advance`: `I` holds the word, `PC` moves by 2,
all else is kept. -/
theorem exec_setI_spec {s : State} {i : Instr} {w : Word} (he : exec i s = .next ({ s with i := w } : State).advance) :
    ∃ t, exec i s = .next t ∧ t.i = w ∧ t.pc = s.pc + 2 ∧ Frame [.i] s t :=
  ⟨_, he, State.advance_i _, State.advance_pc _, ((Frame.refl [.i] s).withI List.mem_cons_self w).advance⟩

/-! ## The obligation of 45_address_and_memory.md on loading and adding to `I` -/

/-- Settles O37: both write `I` alone; zero extension keeps the value of the immediate and of the register, and a sum of words
is the sum of the naturals modulo 65536. -/
theorem addressRegisterIsLoadedAndAdded : Obligations.AddressRegisterIsLoadedAndAdded := by
  refine ⟨fun s nnn => ?load, fun s x => ?add⟩
  case load =>
    obtain ⟨t, he, hi, hpc, hframe⟩ := exec_setI_spec (exec_loadAddress nnn s)
    have hvalue : t.i.toNat = nnn.toNat := by rw [hi, toNat_zextAddr]
    exact ⟨t, he, hvalue, hpc, hframe⟩
  case add =>
    obtain ⟨t, he, hi, hpc, hframe⟩ := exec_setI_spec (exec_addToAddress x s)
    have hsum : t.i.toNat = (s.i.toNat + (s.reg x).toNat) % 65536 := by rw [hi, BitVec.toNat_add, toNat_zextByte]
    exact ⟨t, he, hsum, hpc, hframe⟩

end Sys2Proof.Machine

namespace Sys2Proof.Machine

/-! ## The operations that can fault, in the case that goes on and in the case that faults -/

theorem withRange_of_fits {base n : Nat} (t : State) (h : n = 0 ∨ base + n ≤ 4096) : withRange base n t = .next t := by
  rcases withRange_cases base n t with ⟨-, he⟩ | ⟨hn, hlt, -⟩
  · exact he
  · omega

theorem withRange_of_past {base n : Nat} (t : State) (hn : n ≠ 0) (h : 4096 < base + n) :
    withRange base n t = .fault (.memOutOfRange (max base 4096)) := by
  rcases withRange_cases base n t with ⟨hfits, -⟩ | ⟨-, -, he⟩
  · omega
  · exact he

theorem exec_call_of_room {s : State} (nnn : Addr12) (h : s.sp.toNat < 15) :
    exec (.call nnn) s = .next ((s.push s.nextPc).jumpTo (zextAddr nnn)) := if_neg (Nat.not_le.2 h)

theorem exec_call_of_full {s : State} (nnn : Addr12) (h : 15 ≤ s.sp.toNat) :
    exec (.call nnn) s = .fault (.stackOverflow s.pc) := if_pos h

theorem exec_ret_of_top {s : State} {w : Word} (h : s.top = some w) : exec .ret s = .next (s.pop.jumpTo w) := by
  simp only [exec, execRet, h]

theorem exec_ret_of_no_top {s : State} (h : s.top = none) : exec .ret s = .fault (.stackUnderflow s.pc) := by
  simp only [exec, execRet, h, raise]

/-- The entry `return` pops exists exactly with `SP` from 1 to 16. -/
theorem State.top_cases (s : State) :
    ((s.sp.toNat = 0 ∨ 16 < s.sp.toNat) ∧ s.top = none) ∨
    (∃ w, 1 ≤ s.sp.toNat ∧ s.sp.toNat ≤ 16 ∧ s.slot (s.sp.toNat - 1) = some w ∧ s.top = some w) := by
  by_cases h0 : s.sp = 0
  · exact .inl ⟨.inl (congrArg BitVec.toNat h0), if_pos h0⟩
  have hpos : s.sp.toNat ≠ 0 := fun h => h0 (BitVec.eq_of_toNat_eq h)
  have htop : s.top = s.slot (s.sp.toNat - 1) := if_neg h0
  by_cases h16 : 16 < s.sp.toNat
  · exact .inl ⟨.inr h16, by rw [htop]; exact Vector.getElem?_eq_none (by omega)⟩
  · have hslot : s.slot (s.sp.toNat - 1) = some (s.stack[s.sp.toNat - 1]'(by omega)) := Vector.getElem?_eq_getElem (by omega)
    exact .inr ⟨_, by omega, by omega, hslot, htop.trans hslot⟩

/-! ## What an instruction can do, said once

Thirty-five instructions change the state in fifteen ways and fault in six. -/

/-- The instruction `i` goes on and leaves this state (10_state.md R27, R28). -/
inductive Effect (s : State) (i : Instr) : State → Prop
  /-- One register is written, no flag. -/
  | reg {x : RegIx} (b : Byte) (hd : destinations i = [x]) : Effect s i (s.setReg x b).advance
  /-- The flag is written, then a register. -/
  | flag {x : RegIx} (f b : Byte) (hd : destinations i = [x]) (hf : writesFlag i = true) :
      Effect s i (s.setFlagThenReg f x b).advance
  /-- A random byte is used. -/
  | random {x : RegIx} (b : Byte) (hd : destinations i = [x]) (ho : i.opcode = .randomAndMask) :
      Effect s i (s.useRandom.setReg x b).advance
  /-- Only `PC` moves, by 2 or by 4: the skips, and `sys`. -/
  | skip (c : Bool) : Effect s i (s.skipIf c)
  /-- A jump, no further than `0xFFF + 0xFF`. -/
  | jump (w : Word) (hw : w.toNat ≤ 4350) : Effect s i (s.jumpTo w)
  | call (w : Word) (ho : i.opcode = .call) (hsp : s.sp.toNat < 15) (hw : w.toNat < 4096) :
      Effect s i ((s.push s.nextPc).jumpTo w)
  | ret (w : Word) (ho : i.opcode = .ret) (hsp : 1 ≤ s.sp.toNat) (hw : s.slot (s.sp.toNat - 1) = some w) :
      Effect s i (s.pop.jumpTo w)
  | address (w : Word) (ho : i.opcode ∈ [Opcode.loadAddress, .addToAddress, .loadFontAddress]) :
      Effect s i ({ s with i := w } : State).advance
  | clear (p : Pix) (ho : i.opcode = .clearDisplay) : Effect s i ({ s with pix := p } : State).advance
  | sprite (p : Pix) (f : Byte) (ho : i.opcode = .drawSprite) :
      Effect s i (({ s with pix := p } : State).setFlag f).advance
  | delay (b : Byte) (ho : i.opcode = .setDelayTimer) : Effect s i ({ s with dt := b } : State).advance
  | sound (b : Byte) (ho : i.opcode = .setSoundTimer) : Effect s i ({ s with st := b } : State).advance
  | wait (x : RegIx) (ho : i.opcode = .waitForKey) :
      Effect s i ({ s with kwBlocked := true, kwTarget := x } : State).advance
  /-- Bytes are stored at `I` and up, inside memory. -/
  | store (bs : List Byte) (ho : i.opcode ∈ [Opcode.storeBcd, .storeRegisterBlock]) (hr : s.base + bs.length ≤ 4096) :
      Effect s i (s.setBytes s.base bs).advance
  | load {x : RegIx} (bs : List Byte) (hi : i = .loadRegisterBlock x) (hlen : bs.length = blockSize x) :
      Effect s i (s.setRegs 0 bs).advance

/-- The instruction `i` faults with this fault (60_exceptions.md R162, R163, R164). -/
inductive Trap (s : State) : Instr → Fault → Prop
  | call (nnn : Addr12) (h : 15 ≤ s.sp.toNat) : Trap s (.call nnn) (.stackOverflow s.pc)
  | ret (h : s.sp.toNat = 0 ∨ 16 < s.sp.toNat) : Trap s .ret (.stackUnderflow s.pc)
  | sprite (x y : RegIx) (n : Count) (hn : n ≠ 0) (h : 4096 < s.base + n.toNat) :
      Trap s (.drawSprite x y n) (.memOutOfRange (max s.base 4096))
  | bcd (x : RegIx) (h : 4096 < s.base + 3) : Trap s (.storeBcd x) (.memOutOfRange (max s.base 4096))
  | store (x : RegIx) (h : 4096 < s.base + blockSize x) :
      Trap s (.storeRegisterBlock x) (.memOutOfRange (max s.base 4096))
  | load (x : RegIx) (h : 4096 < s.base + blockSize x) :
      Trap s (.loadRegisterBlock x) (.memOutOfRange (max s.base 4096))

/-- An instruction that faults by its trap: each of the six faults is raised. -/
theorem exec_of_trap {s : State} {i : Instr} {f : Fault} (h : Trap s i f) : exec i s = .fault f := by
  cases h with
  | call nnn h => exact exec_call_of_full nnn h
  | ret h =>
    rcases s.top_cases with ⟨-, htop⟩ | ⟨w, h1, h16, -⟩
    · exact exec_ret_of_no_top htop
    · omega
  | sprite x y n hn h => exact withRange_of_past _ (BitVec.toNat_ne_iff_ne.2 hn) h
  | bcd x h => exact withRange_of_past _ (by omega) h
  | store x h => exact withRange_of_past _ (Nat.succ_ne_zero _) h
  | load x h => exact withRange_of_past _ (Nat.succ_ne_zero _) h

/-- The argument about the four memory instructions: the effect when the access fits, the trap when it does not. -/
theorem exec_access_cases {s t : State} {i : Instr} {n : Nat} (he : exec i s = withRange s.base n t)
    (hfits : n = 0 ∨ s.base + n ≤ 4096 → Effect s i t)
    (hpast : n ≠ 0 → 4096 < s.base + n → Trap s i (.memOutOfRange (max s.base 4096))) :
    (∃ t, exec i s = .next t ∧ Effect s i t) ∨ ∃ f, exec i s = .fault f ∧ Trap s i f := by
  rcases withRange_cases s.base n t with ⟨h, hw⟩ | ⟨hn, h, hw⟩
  · exact .inl ⟨t, he.trans hw, hfits h⟩
  · exact .inr ⟨_, he.trans hw, hpast hn h⟩

theorem toNat_zextAddr_lt (nnn : Addr12) : (zextAddr nnn).toNat < 4096 := toNat_zextAddr nnn ▸ nnn.isLt

/-- The plain sum of `jump-with-offset` does not wrap (R104). -/
theorem State.toNat_offsetTarget (s : State) (nnn : Addr12) :
    (s.offsetTarget nnn).toNat = nnn.toNat + (s.reg 0).toNat := by
  rw [State.offsetTarget, BitVec.toNat_add, toNat_zextAddr, toNat_zextByte, Nat.mod_eq_of_lt]
  have := nnn.isLt
  have := (s.reg 0).isLt
  omega

/-- Everything an instruction can answer: one of the effects, or one of the traps; never a refusal. -/
theorem exec_cases (i : Instr) (s : State) :
    (∃ t, exec i s = .next t ∧ Effect s i t) ∨ ∃ f, exec i s = .fault f ∧ Trap s i f := by
  cases i with
  | clearDisplay => exact .inl ⟨_, rfl, .clear _ rfl⟩
  | ret =>
    rcases s.top_cases with ⟨h, htop⟩ | ⟨w, h1, -, hslot, htop⟩
    · exact .inr ⟨_, exec_ret_of_no_top htop, .ret h⟩
    · exact .inl ⟨_, exec_ret_of_top htop, .ret w rfl h1 hslot⟩
  | jump nnn => exact .inl ⟨_, rfl, .jump _ (by have := toNat_zextAddr_lt nnn; omega)⟩
  | call nnn =>
    rcases Nat.lt_or_ge s.sp.toNat 15 with h | h
    · exact .inl ⟨_, exec_call_of_room nnn h, .call _ rfl h (toNat_zextAddr_lt nnn)⟩
    · exact .inr ⟨_, exec_call_of_full nnn h, .call nnn h⟩
  | skipEqualByte | skipNotEqualByte | skipEqualReg | skipNotEqualReg | skipIfKeyPressed | skipIfKeyNotPressed =>
    exact .inl ⟨_, rfl, .skip _⟩
  | sys => exact .inl ⟨_, rfl, .skip false⟩
  | loadByte | addByte | move | orReg | andReg | xorReg | loadDelayTimer => exact .inl ⟨_, rfl, .reg _ rfl⟩
  | addReg | subReg | shiftRight | subtractReversed | shiftLeft => exact .inl ⟨_, rfl, .flag _ _ rfl rfl⟩
  | loadAddress | addToAddress | loadFontAddress => exact .inl ⟨_, rfl, .address _ (by simp [Instr.opcode])⟩
  | jumpWithOffset nnn =>
    refine .inl ⟨_, rfl, .jump _ ?_⟩
    have := s.toNat_offsetTarget nnn
    have := nnn.isLt
    have := (s.reg 0).isLt
    omega
  | randomAndMask => exact .inl ⟨_, rfl, .random _ rfl rfl⟩
  | drawSprite x y n =>
    exact exec_access_cases rfl (fun _ => .sprite _ _ rfl) fun hn h => .sprite x y n (BitVec.toNat_ne_iff_ne.1 hn) h
  | waitForKey => exact .inl ⟨_, rfl, .wait _ rfl⟩
  | setDelayTimer => exact .inl ⟨_, rfl, .delay _ rfl⟩
  | setSoundTimer => exact .inl ⟨_, rfl, .sound _ rfl⟩
  | storeBcd x =>
    exact exec_access_cases rfl (fun h => .store (bcdDigits (s.reg x)) (by simp [Instr.opcode]) (by simp [bcdDigits]; omega))
      fun _ h => .bcd x h
  | storeRegisterBlock x =>
    exact exec_access_cases rfl
      (fun h => .store (s.regBlock x) (by simp [Instr.opcode]) (by simp [blockSize] at h ⊢; omega)) fun _ h => .store x h
  | loadRegisterBlock x =>
    exact exec_access_cases rfl (fun _ => .load _ rfl (s.length_bytesAt _ _)) fun _ h => .load x h

theorem effect_of_exec {i : Instr} {s t : State} (h : exec i s = .next t) : Effect s i t := by
  rcases exec_cases i s with ⟨u, he, heff⟩ | ⟨f, he, -⟩
  · cases h.symm.trans he
    exact heff
  · cases h.symm.trans he

theorem trap_of_exec {i : Instr} {s : State} {f : Fault} (h : exec i s = .fault f) : Trap s i f := by
  rcases exec_cases i s with ⟨t, he, -⟩ | ⟨g, he, htrap⟩
  · cases h.symm.trans he
  · cases h.symm.trans he
    exact htrap

theorem exec_ne_refused (i : Instr) (s : State) (r : Refusal) : exec i s ≠ .refused r := by
  rcases exec_cases i s with ⟨t, he, -⟩ | ⟨f, he, -⟩ <;> simp [he]

/-! ## The invariant (10_state.md section 2) -/

theorem inv_wf {s : State} (h : Inv s) : s.mem.wf := h.1

theorem inv_pc_le {s : State} (h : Inv s) : s.pc.toNat ≤ 4350 := h.2.1

/-- The invariant speaks of memory, `PC`, `SP` and the stack only. -/
theorem inv_of_same {s t : State} (h : Inv s) (hmem : t.mem = s.mem) (hsp : t.sp = s.sp) (hstack : t.stack = s.stack)
    (hpc : t.pc.toNat ≤ 4350) : Inv t := by
  obtain ⟨hwf, -, hsp15, hlive, h15⟩ := h
  have hslot : ∀ j, t.slot j = s.slot j := fun j => by rw [State.slot, hstack, State.slot]
  exact ⟨hmem ▸ hwf, hpc, hsp ▸ hsp15, fun j hj => hslot j ▸ hlive j (hsp ▸ hj), hslot 15 ▸ h15⟩

/-- Settles O52: memory and the stack are empty, `PC` is 0x200. -/
theorem invariantHoldsAtReset : Obligations.InvariantHoldsAtReset :=
  ⟨by decide, by decide, by decide, fun j hj => absurd hj (Nat.not_lt_zero j), rfl⟩

/-- A call from an address that fetches pushes a return address from 2 to 4096, below `STACK[15]`. -/
theorem inv_push {s : State} (h : Inv s) (hpc : s.pc.toNat ≤ 4094) (hsp : s.sp.toNat < 15) (w : Word)
    (hw : w.toNat ≤ 4350) : Inv ((s.push s.nextPc).jumpTo w) := by
  obtain ⟨hwf, -, -, hlive, h15⟩ := h
  have hslot : ∀ j, ((s.push s.nextPc).jumpTo w).slot j = if j = s.sp.toNat then some s.nextPc else s.slot j :=
    fun j => s.slot_push s.nextPc j (by omega)
  have hnew : ((s.push s.nextPc).jumpTo w).sp.toNat = s.sp.toNat + 1 := by simp; omega
  refine ⟨hwf, hw, by omega, fun j hj ret hret => ?_, by rw [hslot, if_neg (by omega)]; exact h15⟩
  rw [hslot] at hret
  split at hret
  · cases hret
    simp only [State.nextPc_eq]
    bv_omega
  · exact hlive j (by omega) ret hret

/-- A return goes to a live entry, at most 4096. -/
theorem inv_pop {s : State} (h : Inv s) (hsp : 1 ≤ s.sp.toNat) {w : Word} (hw : s.slot (s.sp.toNat - 1) = some w) :
    Inv (s.pop.jumpTo w) := by
  obtain ⟨hwf, -, hsp15, hlive, h15⟩ := h
  have hnew : (s.pop.jumpTo w).sp.toNat = s.sp.toNat - 1 := by simp only [State.jumpTo_sp, State.pop_sp]; bv_omega
  have hret := hlive (s.sp.toNat - 1) (by omega) w hw
  exact ⟨hwf, show w.toNat ≤ 4350 by omega, by omega, fun j hj => hlive j (by omega), h15⟩

/-- Bytes written inside memory keep its canonical form. -/
theorem inv_setBytes {s : State} (h : Inv s) {base : Nat} {bs : List Byte} (hr : base + bs.length ≤ 4096) :
    Inv (s.setBytes base bs) := by
  have hstored : Inv { s with mem := (s.setBytes base bs).mem } := ⟨s.wf_setBytes base bs (inv_wf h) hr, h.2⟩
  exact inv_of_same hstored rfl (by simp) (by simp) (by simpa using inv_pc_le h)

theorem effect_keeps_inv {s t : State} {i : Instr} (hinv : Inv s) (hpc : s.pc.toNat ≤ 4094) (h : Effect s i t) : Inv t := by
  have hadv : (s.pc + 2#16).toNat ≤ 4350 := by bv_omega
  cases h with
  | reg | flag | address | clear | sprite | delay | sound | wait => exact inv_of_same hinv rfl rfl rfl hadv
  | random | load => exact inv_of_same hinv (by simp) (by simp) (by simp) (by simpa using hadv)
  | skip c => exact inv_of_same hinv (by simp) (by simp) (by simp) (by cases c <;> simp <;> omega)
  | jump w hw => exact inv_of_same hinv rfl rfl rfl hw
  | call w _ hsp hw => exact inv_push hinv hpc hsp w (by omega)
  | ret w _ hsp hw => exact inv_pop hinv hsp hw
  | store bs _ hr => exact inv_of_same (inv_setBytes hinv hr) rfl rfl rfl (by simpa using hadv)

/-- Settles O53: a step that goes on changes nothing, resolves a key, runs an instruction from an address that fetches, or passes
over an invalid word. -/
theorem stepKeepsTheInvariant : Obligations.StepKeepsTheInvariant := by
  intro s t hinv h
  rcases step_cases s with ⟨-, -, he⟩ | ⟨-, -, -, -, he⟩ | ⟨k, -, -, -, -, he⟩ | ⟨i, hpc, -, -, -, he⟩ | ⟨e, hpc, -, -, -, he⟩
  · cases h.symm.trans he; exact hinv
  · cases h.symm.trans he; exact hinv
  · cases h.symm.trans he; exact inv_of_same hinv rfl rfl rfl (inv_pc_le hinv)
  · exact effect_keeps_inv hinv hpc (effect_of_exec (he.symm.trans h))
  · cases h.symm.trans he
    exact inv_of_same hinv rfl rfl rfl (by simp; omega)

end Sys2Proof.Machine

namespace Sys2Proof.Machine

/-! ## The five branches of a step, each from its condition (40_step_and_dispatch.md R81) -/

theorem step_of_halted {s : State} (h : 4094 < s.pc.toNat) : branchOf s = .halted ∧ step s = .next s := by
  rcases step_cases s with ⟨-, hb⟩ | ⟨hle, -⟩ | ⟨k, hle, -⟩ | ⟨i, hle, -⟩ | ⟨e, hle, -⟩
  · exact hb
  all_goals omega

theorem step_of_blocked {s : State} (hpc : s.pc.toNat ≤ 4094) (hk : s.kwBlocked = true) (hkey : s.key = none) :
    branchOf s = .blocked ∧ step s = .next s := by
  rcases step_cases s with ⟨hlt, -⟩ | ⟨-, -, -, hb⟩ | ⟨k, -, -, hsome, -⟩ | ⟨i, -, hfree, -⟩ | ⟨e, -, hfree, -⟩
  · omega
  · exact hb
  · simp [hkey] at hsome
  all_goals simp [hk] at hfree

theorem step_of_key {s : State} {k : Digit} (hpc : s.pc.toNat ≤ 4094) (hk : s.kwBlocked = true) (hkey : s.key = some k) :
    branchOf s = .resolve k ∧ step s = .next (resolveKey k s) := by
  rcases step_cases s with ⟨hlt, -⟩ | ⟨-, -, hnone, -⟩ | ⟨k', -, -, hsome, hb⟩ | ⟨i, -, hfree, -⟩ | ⟨e, -, hfree, -⟩
  · omega
  · simp [hkey] at hnone
  · cases hkey.symm.trans hsome
    exact hb
  all_goals simp [hk] at hfree

theorem step_of_decoded {s : State} {i : Instr} (hf : Fetches s) (hd : decodeWord s.fetched = .ok i) :
    branchOf s = .run s.fetched i ∧ step s = exec i s := by
  obtain ⟨hpc, hfree⟩ := hf
  rcases step_cases s with ⟨hlt, -⟩ | ⟨-, hk, -⟩ | ⟨k, -, hk, -⟩ | ⟨j, -, -, hj, hb⟩ | ⟨e, -, -, he, -⟩
  · omega
  · simp [hfree] at hk
  · simp [hfree] at hk
  · cases hd.symm.trans hj
    exact hb
  · cases hd.symm.trans he

theorem step_of_invalid {s : State} {e : Reject} (hf : Fetches s) (hd : decodeWord s.fetched = .error e) :
    branchOf s = .invalid s.fetched ∧ step s = .next s.advance := by
  obtain ⟨hpc, hfree⟩ := hf
  rcases step_cases s with ⟨hlt, -⟩ | ⟨-, hk, -⟩ | ⟨k, -, hk, -⟩ | ⟨j, -, -, hj, -⟩ | ⟨e', -, -, -, hb⟩
  · omega
  · simp [hfree] at hk
  · simp [hfree] at hk
  · cases hd.symm.trans hj
  · exact hb

theorem step_ne_refused (s : State) (r : Refusal) : step s ≠ .refused r := by
  rcases step_cases s with ⟨-, -, he⟩ | ⟨-, -, -, -, he⟩ | ⟨k, -, -, -, -, he⟩ | ⟨i, -, -, -, -, he⟩ | ⟨e, -, -, -, -, he⟩
  · simp [he]
  · simp [he]
  · simp [he]
  · exact he ▸ exec_ne_refused i s r
  · simp [he, execInvalid]

/-! ## The event `Step(rnd)` -/

/-- The state a `Step(rnd)` runs from: `rnd` is the next random byte. -/
def State.fed (s : State) (rnd : Byte) : State := { s with rndInput := rnd :: s.rndInput }

/-- `Step(rnd)` is a step from the fed state, and takes the input away. -/
theorem stepWith_cases (rnd : Byte) (s : State) :
    (∃ t, step (s.fed rnd) = .next t ∧ stepWith rnd s = .next { t with rndInput := s.rndInput }) ∨
    ∃ f, step (s.fed rnd) = .fault f ∧ stepWith rnd s = .fault f := by
  have hstep : stepWith rnd s = withInput s.rndInput (step (s.fed rnd)) := rfl
  cases h : step (s.fed rnd) with
  | next t => exact .inl ⟨t, rfl, by rw [hstep, h]; rfl⟩
  | fault f => exact .inr ⟨f, rfl, by rw [hstep, h]; rfl⟩
  | refused r => exact absurd h (step_ne_refused _ r)

/-- A step that would change nothing leaves the state as it was, the random input included. -/
theorem after_step_of_idle {s : State} {rnd : Byte} (h : step (s.fed rnd) = .next (s.fed rnd)) :
    after s (.step rnd) = s := by
  rcases stepWith_cases rnd s with ⟨t, ht, he⟩ | ⟨f, hf, -⟩
  · cases ht.symm.trans h
    exact congrArg (stateAfter s) he
  · cases hf.symm.trans h

theorem after_step_of_halted {s : State} (h : 4094 < s.pc.toNat) (rnd : Byte) : after s (.step rnd) = s :=
  after_step_of_idle (step_of_halted (s := s.fed rnd) h).2

theorem after_step_of_blocked {s : State} (hk : s.kwBlocked = true) (hkey : s.key = none) (rnd : Byte) :
    after s (.step rnd) = s := by
  rcases Nat.lt_or_ge 4094 s.pc.toNat with h | h
  · exact after_step_of_halted h rnd
  · exact after_step_of_idle (step_of_blocked (s := s.fed rnd) h hk hkey).2

/-! ## The other events -/

theorem handle_load_of_fits {s : State} {bytes : List Byte} {start : Nat} (h : start + bytes.length ≤ 4096) :
    handle s (.load bytes start) = .next (s.setBytes start bytes) := if_neg (Nat.not_lt.2 h)

theorem handle_load_of_past {s : State} {bytes : List Byte} {start : Nat} (h : 4096 < start + bytes.length) :
    handle s (.load bytes start) = .fault (.loadTooLarge start bytes.length) := if_pos h

theorem after_of_fault {s : State} {e : Event} {f : Fault} (h : handle s e = .fault f) : after s e = s :=
  congrArg (stateAfter s) h

theorem after_of_next {s t : State} {e : Event} (h : handle s e = .next t) : after s e = t :=
  congrArg (stateAfter s) h

/-! ## Runs -/

/-- The induction over a run: what each event of a kind keeps holds after any sequence of such events. -/
theorem runEvents_keeps {P : State → Prop} {kind : Event → Prop} (hkeep : ∀ u e, kind e → P u → P (after u e))
    {s : State} {es : List Event} (hes : ∀ e ∈ es, kind e) (hs : P s) : P (runEvents s es) := by
  induction es generalizing s with
  | nil => exact hs
  | cons e es ih =>
    obtain ⟨he, hes⟩ := List.forall_mem_cons.1 hes
    exact ih hes (hkeep s e he hs)

theorem faultsOf_append (s : State) (es fs : List Event) :
    faultsOf s (es ++ fs) = faultsOf s es ++ faultsOf (runEvents s es) fs := by
  induction es generalizing s with
  | nil => rfl
  | cons e es ih =>
    simp only [List.cons_append, faultsOf, runEvents, ih]
    cases handle s e <;> rfl

/-! ## The obligations on whole runs: the invariant, and no refusal -/

theorem after_keeps_inv (s : State) (e : Event) (h : Inv s) : Inv (after s e) := by
  cases e with
  | reset => exact inv_of_same invariantHoldsAtReset rfl rfl rfl (inv_pc_le invariantHoldsAtReset)
  | load bytes start =>
    rcases Nat.lt_or_ge 4096 (start + bytes.length) with hpast | hfits
    · exact (after_of_fault (s := s) (handle_load_of_past hpast)).symm ▸ h
    · exact (after_of_next (s := s) (handle_load_of_fits hfits)).symm ▸ inv_setBytes h hfits
  | step rnd =>
    rcases stepWith_cases rnd s with ⟨t, ht, he⟩ | ⟨f, -, he⟩
    · have hfed : Inv (s.fed rnd) := inv_of_same h rfl rfl rfl (inv_pc_le h)
      have hinv : Inv t := stepKeepsTheInvariant _ _ hfed ht
      exact (after_of_next (e := .step rnd) he).symm ▸ inv_of_same hinv rfl rfl rfl (inv_pc_le hinv)
    · exact (after_of_fault (e := .step rnd) he).symm ▸ h
  | tick | keyUpdate | observe => exact inv_of_same h rfl rfl rfl (inv_pc_le h)

/-- Settles O54: each event keeps the invariant, and a faulting one leaves the state as it was. -/
theorem eventsKeepTheInvariant : Obligations.EventsKeepTheInvariant := fun _ _ h =>
  runEvents_keeps (kind := fun _ => True) (fun u e _ => after_keeps_inv u e) (fun _ _ => trivial) h

/-- Settles O48: an instruction has an effect or a trap, and every other event answers with a state or with the fault of `Load`. -/
theorem nothingIsRefused : Obligations.NothingIsRefused := by
  refine fun s r => ⟨step_ne_refused s r, fun e => ?_⟩
  cases e with
  | load bytes start =>
    rcases Nat.lt_or_ge 4096 (start + bytes.length) with hpast | hfits
    · simp [handle_load_of_past hpast]
    · simp [handle_load_of_fits hfits]
  | step rnd =>
    rcases stepWith_cases rnd s with ⟨t, -, he⟩ | ⟨f, -, he⟩ <;> simp [handle, he]
  | reset | tick | keyUpdate | observe => simp [handle]

/-! ## The obligations on all instructions -/

/-- Settles O45: each of the fifteen effects writes its own piece, under the opcodes that have it. -/
theorem eachPieceHasItsWriters : Obligations.EachPieceHasItsWriters := by
  intro i s t h
  cases effect_of_exec h with
  | reg | flag | skip | jump | load => simp
  | random _ _ ho | call _ ho | ret _ ho | address _ ho | clear _ ho | sprite _ _ ho | delay _ ho | sound _ ho | wait _ ho
  | store _ ho => simp [ho]

/-- The registers of a block are those up to its last one. -/
theorem mem_regIx_range (x z : RegIx) : z ∈ (List.range (x.toNat + 1)).map regIx ↔ z.toNat ≤ x.toNat := by
  have := x.isLt
  rw [List.mem_map]
  constructor
  · rintro ⟨k, hk, rfl⟩
    rw [List.mem_range] at hk
    rw [regIx_toNat k (by omega)]
    omega
  · exact fun h => ⟨z.toNat, List.mem_range.2 (by omega), toNat_regIx z⟩

/-- A block of registers from `V[0]` up leaves the registers above it. -/
theorem State.reg_setRegs_of_below (s : State) (bs : List Byte) {z : RegIx} (h : bs.length ≤ z.toNat) :
    (s.setRegs 0 bs).reg z = s.reg z := by
  have := z.isLt
  rw [s.reg_setRegs 0 bs z (by omega), if_pos (Nat.zero_le _), Nat.sub_zero, List.getElem?_eq_none h, Option.getD_none]

/-- Settles O46: an effect writes registers as its one destination, the flag before it, or the block of `load-register-block`. -/
theorem onlyDestinationsAndTheFlagChange : Obligations.OnlyDestinationsAndTheFlagChange := by
  intro i s t h z hz hflag
  cases effect_of_exec h with
  | reg b hd | random b hd =>
    have hne := List.mem_singleton.not.1 (hd ▸ hz)
    simp [hne]
  | flag f b hd hf =>
    have hne := List.mem_singleton.not.1 (hd ▸ hz)
    have h15 : z ≠ 15#4 := hflag hf
    simp [hne, h15]
  | sprite p f ho =>
    have hz15 : z ≠ 15 := hflag (by simp [writesFlag, ho])
    exact (State.reg_setFlag _ f z).trans (if_neg hz15)
  | @load x bs hi hlen =>
    have hlt : x.toNat < z.toNat := Nat.lt_of_not_le fun hle => hz (hi ▸ (mem_regIx_range x z).2 hle)
    exact s.reg_setRegs_of_below bs (hlen ▸ hlt)
  | skip | jump | call | ret | address | clear | delay | sound | wait | store => simp

/-- Settles O47: the six traps, with their conditions. -/
theorem onlySixInstructionsFault : Obligations.OnlySixInstructionsFault := by
  intro i s f hf
  cases trap_of_exec hf with
  | call nnn h => exact .inl ⟨nnn, rfl, h, rfl⟩
  | ret h => exact .inr (.inl ⟨rfl, h, rfl⟩)
  | sprite x y n hn h => exact .inr (.inr ⟨rfl, .inl ⟨x, y, n, rfl, hn, h⟩⟩)
  | bcd x h => exact .inr (.inr ⟨rfl, .inr (.inl ⟨x, rfl, h⟩)⟩)
  | store x h => exact .inr (.inr ⟨rfl, .inr (.inr (.inl ⟨x, rfl, h⟩))⟩)
  | load x h => exact .inr (.inr ⟨rfl, .inr (.inr (.inr ⟨x, rfl, h⟩))⟩)

end Sys2Proof.Machine

namespace Sys2Proof

open Sys2Proof.Machine

/-! ## Frames, composed and of the remaining operations -/

theorem Frame.trans {changed : List Piece} {s t u : State} (h : Frame changed s t) (k : Frame changed t u) :
    Frame changed s u where
  regs x hx := (k.regs x hx).trans (h.regs x hx)
  i hi := (k.i hi).trans (h.i hi)
  sp hsp := (k.sp hsp).trans (h.sp hsp)
  stack hstack j := (k.stack hstack j).trans (h.stack hstack j)
  dt hdt := (k.dt hdt).trans (h.dt hdt)
  st hst := (k.st hst).trans (h.st hst)
  keyWait hkw := ⟨(k.keyWait hkw).1.trans (h.keyWait hkw).1, (k.keyWait hkw).2.trans (h.keyWait hkw).2⟩
  key hkey := (k.key hkey).trans (h.key hkey)
  pix hpix row col := (k.pix hpix row col).trans (h.pix hpix row col)
  mem hmem a := (k.mem hmem a).trans (h.mem hmem a)
  random hr := ⟨(k.random hr).1.trans (h.random hr).1, (k.random hr).2.trans (h.random hr).2⟩

theorem Frame.mono {small large : List Piece} {s t : State} (h : Frame small s t) (hsub : small ⊆ large) :
    Frame large s t where
  regs x hx := h.regs x fun hmem => hx (hsub hmem)
  i hi := h.i fun hmem => hi (hsub hmem)
  sp hsp := h.sp fun hmem => hsp (hsub hmem)
  stack hstack := h.stack fun hmem => hstack (hsub hmem)
  dt hdt := h.dt fun hmem => hdt (hsub hmem)
  st hst := h.st fun hmem => hst (hsub hmem)
  keyWait hkw := h.keyWait fun hmem => hkw (hsub hmem)
  key hkey := h.key fun hmem => hkey (hsub hmem)
  pix hpix := h.pix fun hmem => hpix (hsub hmem)
  mem hm := h.mem fun hmem => hm (hsub hmem)
  random hr := h.random fun hmem => hr (hsub hmem)

section
variable {changed : List Piece} {s t : State}

theorem Frame.setFlagThenReg {x : RegIx} (h : Frame changed s t) (hf : Piece.reg 15 ∈ changed) (hx : Piece.reg x ∈ changed)
    (f b : Byte) : Frame changed s (t.setFlagThenReg f x b) :=
  (h.setReg hf f).setReg hx b

theorem Frame.setBytes (h : Frame changed s t) (hm : Piece.mem ∈ changed) (base : Nat) (bs : List Byte) :
    Frame changed s (t.setBytes base bs) :=
  h.trans (by constructor <;> simp [hm])

theorem Frame.setRegs (h : Frame changed s t) (bs : List Byte)
    (hx : ∀ x : RegIx, Piece.reg x ∉ changed → bs.length ≤ x.toNat) : Frame changed s (t.setRegs 0 bs) := by
  refine h.trans ?_
  constructor
  case regs => exact fun x hnot => t.reg_setRegs_of_below bs (hx x hnot)
  all_goals simp

theorem Frame.withKeyWait (h : Frame changed s t) (hk : Piece.keyWait ∈ changed) (b : Bool) (x : RegIx) :
    Frame changed s { t with kwBlocked := b, kwTarget := x } :=
  { h with keyWait := fun hnot => absurd hk hnot }

theorem Frame.resolveKey (h : Frame changed s t) (hx : Piece.reg t.kwTarget ∈ changed) (hk : Piece.keyWait ∈ changed)
    (k : Digit) : Frame changed s (resolveKey k t) :=
  (h.setReg hx (zextDigit k)).withKeyWait hk false t.kwTarget

theorem Frame.tick (h : Frame changed s t) (hdt : Piece.dt ∈ changed) (hst : Piece.st ∈ changed) :
    Frame changed s (tick t) :=
  (h.withDt hdt (countDown t.dt)).withSt hst (countDown t.st)

theorem Frame.withRndInput (h : Frame changed s t) (hr : Piece.random ∈ changed) (q : List Byte) :
    Frame changed s { t with rndInput := q } :=
  { h with random := fun hnot => absurd hr hnot }

theorem Frame.useRandom (h : Frame changed s t) (hr : Piece.random ∈ changed) : Frame changed s t.useRandom :=
  h.trans (by constructor <;> simp [hr])

theorem Frame.push (h : Frame changed s t) (hsp : Piece.sp ∈ changed) (hstack : Piece.stack ∈ changed) (w : Word) :
    Frame changed s (t.push w) :=
  { h with sp := fun hnot => absurd hsp hnot, stack := fun hnot => absurd hstack hnot }

theorem Frame.pop (h : Frame changed s t) (hsp : Piece.sp ∈ changed) : Frame changed s t.pop :=
  { h with sp := fun hnot => absurd hsp hnot }

end

/-- The pieces of a register block name the registers up to its last one. -/
theorem reg_mem_regsUpTo (x z : RegIx) : Piece.reg z ∈ Piece.regsUpTo x ↔ z.toNat ≤ x.toNat := by
  rw [← mem_regIx_range, Piece.regsUpTo, List.mem_map, List.mem_map]
  simp

/-! ## Nothing moves: `PC` and the frame together -/

/-- `PC` and every piece of state but those listed are the same. -/
def StaysBut (changed : List Piece) (s t : State) : Prop := t.pc = s.pc ∧ Frame changed s t

theorem StaysBut.refl (changed : List Piece) (s : State) : StaysBut changed s s := ⟨rfl, Frame.refl changed s⟩

theorem StaysBut.trans {changed : List Piece} {s t u : State} (h : StaysBut changed s t) (k : StaysBut changed t u) :
    StaysBut changed s u := ⟨k.1.trans h.1, h.2.trans k.2⟩

theorem StaysBut.mono {small large : List Piece} {s t : State} (h : StaysBut small s t) (hsub : small ⊆ large) :
    StaysBut large s t := ⟨h.1, h.2.mono hsub⟩

end Sys2Proof

namespace Sys2Proof.Machine

/-! ## Steps that change nothing, among other events -/

/-- An event other than `Reset` and `Load` moves only the timers and the key, where a step would change nothing. -/
theorem after_stays_of_idle_steps {u : State} {e : Event} (hreset : e ≠ .reset) (hload : ∀ bytes start, e ≠ .load bytes start)
    (hstep : ∀ r, after u (.step r) = u) : StaysBut [.dt, .st, .key] u (after u e) ∧ (after u e).mem = u.mem := by
  cases e with
  | reset => exact absurd rfl hreset
  | load bytes start => exact absurd rfl (hload bytes start)
  | step r => rw [hstep r]; exact ⟨.refl _ u, rfl⟩
  | tick => exact ⟨⟨rfl, (Frame.refl _ u).tick (by simp) (by simp)⟩, rfl⟩
  | keyUpdate k => exact ⟨⟨rfl, (Frame.refl _ u).keyUpdate (by simp) k⟩, rfl⟩
  | observe => exact ⟨.refl _ u, rfl⟩

/-! ## The same fault again (60_exceptions.md section 1) -/

/-- A trap depends on `PC`, `SP` and `I` only. -/
theorem Trap.of_same {s t : State} {i : Instr} {f : Fault} (h : Trap s i f) (hpc : t.pc = s.pc) (hsp : t.sp = s.sp)
    (hi : t.i = s.i) : Trap t i f := by
  have hbase : t.base = s.base := congrArg BitVec.toNat hi
  cases h with
  | call nnn h => exact hpc ▸ .call nnn (hsp ▸ h)
  | ret h => exact hpc ▸ .ret (hsp ▸ h)
  | sprite x y n hn h => exact hbase ▸ .sprite x y n hn (hbase ▸ h)
  | bcd x h => exact hbase ▸ .bcd x (hbase ▸ h)
  | store x h => exact hbase ▸ .store x (hbase ▸ h)
  | load x h => exact hbase ▸ .load x (hbase ▸ h)

/-- A step faults only by running an instruction. -/
theorem trap_of_step {s : State} {f : Fault} (h : step s = .fault f) :
    ∃ i, Fetches s ∧ decodeWord s.fetched = .ok i ∧ Trap s i f := by
  rcases step_cases s with ⟨-, -, he⟩ | ⟨-, -, -, -, he⟩ | ⟨k, -, -, -, -, he⟩ | ⟨i, hpc, hk, hd, -, he⟩ | ⟨e, -, -, -, -, he⟩
  · cases he.symm.trans h
  · cases he.symm.trans h
  · cases he.symm.trans h
  · exact ⟨i, ⟨hpc, hk⟩, hd, trap_of_exec (he.symm.trans h)⟩
  · cases he.symm.trans h

/-- The timers, the key and the random input have no part in a fault. -/
theorem step_faults_of_stays {s t : State} {f : Fault} (hst : StaysBut [.dt, .st, .key, .random] s t)
    (h : step s = .fault f) : step t = .fault f := by
  obtain ⟨hpc, hframe⟩ := hst
  obtain ⟨i, ⟨hle, hk⟩, hd, htrap⟩ := trap_of_step h
  have hmem := hframe.mem (by decide)
  have hfetched : t.fetched = s.fetched := by simp only [State.fetched, hpc, hmem]
  have hf : Fetches t := ⟨hpc ▸ hle, (hframe.keyWait (by decide)).1.trans hk⟩
  rw [(step_of_decoded hf (hfetched ▸ hd)).2]
  exact exec_of_trap (htrap.of_same hpc (hframe.sp (by decide)) (hframe.i (by decide)))

theorem stepWith_faults {s : State} {f : Fault} (h : step s = .fault f) (rnd : Byte) :
    handle s (.step rnd) = .fault f := by
  have hstays : StaysBut [.dt, .st, .key, .random] s (s.fed rnd) := ⟨rfl, (Frame.refl _ s).withRndInput (by simp) _⟩
  have hfed := step_faults_of_stays hstays h
  rcases stepWith_cases rnd s with ⟨t, ht, -⟩ | ⟨g, hg, he⟩
  · cases hfed.symm.trans ht
  · cases hfed.symm.trans hg
    exact he

/-- Settles O49: what a fault depends on is kept by every event that is no `Load` and no `Reset`, a faulting step included. -/
theorem faultComesAgain : Obligations.FaultComesAgain := by
  intro s f rnd h
  refine ⟨stepWith_faults h rnd, after_of_fault (stepWith_faults h rnd), fun es hes => ?_⟩
  have hstays : StaysBut [.dt, .st, .key, .random] s (runEvents s es) := by
    refine runEvents_keeps (fun u e he hu => hu.trans ?_) hes (.refl _ s)
    have hidle := fun r => after_of_fault (stepWith_faults (step_faults_of_stays hu h) r)
    exact (after_stays_of_idle_steps he.1 he.2 hidle).1.mono (by simp)
  have hagain := step_faults_of_stays hstays h
  refine ⟨hagain, fun r hsafe => ?_⟩
  rw [SafeRun, faultsOf_append] at hsafe
  have hnone := (List.append_eq_nil_iff.1 hsafe).2
  simp [faultsOf, stepWith_faults hagain r] at hnone

/-! ## The halted and the blocked Core (60_exceptions.md section 4) -/

/-- Settles O50: a halted step changes nothing, `Load` writes memory only, and the other events move the timers and the key. -/
theorem onlyResetLeavesTheHaltedState : Obligations.OnlyResetLeavesTheHaltedState := by
  intro s es hhalt hes
  have hidle : ∀ {u : State}, u.pc = s.pc → ∀ r, after u (.step r) = u :=
    fun hpc r => after_step_of_halted (hpc ▸ hhalt) r
  have hstays : StaysBut [.mem, .dt, .st, .key] s (runEvents s es) := by
    refine runEvents_keeps (fun u e he hu => hu.trans ?_) hes (.refl _ s)
    by_cases hload : ∃ bytes start, e = .load bytes start
    · obtain ⟨bytes, start, rfl⟩ := hload
      rcases Nat.lt_or_ge 4096 (start + bytes.length) with hpast | hfits
      · rw [after_of_fault (s := u) (handle_load_of_past hpast)]
        exact .refl _ u
      · rw [after_of_next (s := u) (handle_load_of_fits hfits)]
        exact ⟨u.setBytes_pc start bytes, (Frame.refl _ u).setBytes (by simp) start bytes⟩
    · exact (after_stays_of_idle_steps he (fun b a h => hload ⟨b, a, h⟩) (hidle hu.1)).1.mono (by simp)
  refine ⟨hstays.1, hstays.2, fun hnoload => ?_⟩
  have hmem : (runEvents s es).pc = s.pc ∧ (runEvents s es).mem = s.mem := by
    refine runEvents_keeps (P := fun u => u.pc = s.pc ∧ u.mem = s.mem) (fun u e he hu => ?_) hnoload ⟨rfl, rfl⟩
    obtain ⟨⟨hpc, -⟩, hmem⟩ := after_stays_of_idle_steps he.1 he.2 (hidle hu.1)
    exact ⟨hpc.trans hu.1, hmem.trans hu.2⟩
  exact hmem.2

/-- Settles O51: blocked and without a key, a step changes nothing, and `Tick` moves the timers. -/
theorem blockedCoreKeepsItsState : Obligations.BlockedCoreKeepsItsState := by
  intro s es hblocked hkey hes
  refine runEvents_keeps (P := StaysBut [.dt, .st] s) (fun u e he hu => hu.trans ?_) hes (.refl _ s)
  have hu_blocked : u.kwBlocked = true := (hu.2.keyWait (by decide)).1.trans hblocked
  have hu_key : u.key = none := (hu.2.key (by decide)).trans hkey
  rcases he with rfl | rfl | rfl | ⟨r, rfl⟩
  · exact ⟨rfl, (Frame.refl _ u).tick (by simp) (by simp)⟩
  · exact .refl _ u
  · have hsame : after u (.keyUpdate none) = u := by rw [after_keyUpdate, keyUpdate, ← hu_key]
    exact hsame.symm ▸ .refl _ u
  · rw [after_step_of_blocked hu_blocked hu_key r]
    exact .refl _ u

end Sys2Proof.Machine

namespace Sys2Proof

/-! ## The rows of the opcode map (30_encoding.md section 2) -/

theorem selects_iff (o : Opcode) (w : Word) : o.selects w = true ↔ w &&& (opcodeRow o).mask = (opcodeRow o).bits :=
  beq_iff_eq

/-- Two rows that agree in every bit they both fix are the same, but for `sys` and the two words of family 0 that rows 1 and 2 own. -/
theorem rows_agree : ∀ o ∈ tabulated ++ [Opcode.sys], ∀ p ∈ tabulated,
    (opcodeRow o).bits &&& (opcodeRow p).mask = (opcodeRow p).bits &&& (opcodeRow o).mask →
    o = p ∨ (o = .sys ∧ p ∈ [Opcode.clearDisplay, .ret]) := by
  decide

theorem mem_tabulated_iff (o : Opcode) : o ∈ tabulated ↔ o ≠ .sys := by
  cases o <;> decide

theorem mem_rows (o : Opcode) : o ∈ tabulated ++ [Opcode.sys] := by
  cases o <;> decide

/-- Two rows that select one word agree in every bit they both fix. -/
theorem rows_overlap {o p : Opcode} (hp : p ∈ tabulated) {w : Word}
    (hwo : w &&& (opcodeRow o).mask = (opcodeRow o).bits) (hwp : w &&& (opcodeRow p).mask = (opcodeRow p).bits) :
    o = p ∨ (o = .sys ∧ p ∈ [Opcode.clearDisplay, .ret]) := by
  refine rows_agree o (mem_rows o) p hp ?_
  rw [← hwo, ← hwp, BitVec.and_assoc, BitVec.and_assoc, BitVec.and_comm (opcodeRow o).mask]

/-- No two tabulated rows select the same word. -/
theorem tabulated_disjoint {o p : Opcode} (ho : o ∈ tabulated) (hp : p ∈ tabulated) {w : Word}
    (hwo : w &&& (opcodeRow o).mask = (opcodeRow o).bits) (hwp : w &&& (opcodeRow p).mask = (opcodeRow p).bits) : o = p := by
  rcases rows_overlap hp hwo hwp with h | ⟨rfl, -⟩
  · exact h
  · exact absurd rfl ((mem_tabulated_iff _).1 ho)

/-- A row of 1 to 34 that selects a word is the row found. -/
theorem rowOf_of_tabulated {o : Opcode} (ho : o ∈ tabulated) {w : Word} (hw : o.selects w = true) : rowOf w = some o := by
  have hsome : (tabulated.find? (·.selects w)).isSome := List.find?_isSome.2 ⟨o, ho, hw⟩
  obtain ⟨p, hp⟩ := Option.isSome_iff_exists.1 hsome
  have hpo : p = o := tabulated_disjoint (List.mem_of_find?_eq_some hp) ho
    ((selects_iff p w).1 (List.find?_some (p := fun o => Opcode.selects o w) hp)) ((selects_iff o w).1 hw)
  rw [rowOf, List.find?_append, hp, hpo]
  rfl

/-- Row 35 is found exactly where no other row selects. -/
theorem rowOf_of_no_tabulated {w : Word} (h : ∀ o ∈ tabulated, ¬ o.selects w = true) :
    rowOf w = if Opcode.sys.selects w then some .sys else none := by
  rw [rowOf, List.find?_append, List.find?_eq_none.2 h]
  simp only [List.find?_singleton, Option.none_or]

theorem selects_of_rowOf {w : Word} {o : Opcode} (h : rowOf w = some o) : o.selects w = true :=
  List.find?_some (p := fun p => Opcode.selects p w) h

theorem decodeWord_of_row {w : Word} {o : Opcode} (h : rowOf w = some o) : decodeWord w = .ok (o.build w) := by
  simp only [decodeWord, h]

theorem decodeWord_of_no_row {w : Word} (h : rowOf w = none) : decodeWord w = .error (.invalidOpcode w) := by
  simp only [decodeWord, h]

/-- Everything the decoder answers: the instruction of the row found, or that there is none. -/
theorem decodeWord_cases (w : Word) :
    (∃ o, rowOf w = some o ∧ decodeWord w = .ok (o.build w)) ∨
    (rowOf w = none ∧ decodeWord w = .error (.invalidOpcode w)) := by
  cases h : rowOf w with
  | none => exact .inr ⟨rfl, decodeWord_of_no_row h⟩
  | some o => exact .inl ⟨o, rfl, decodeWord_of_row h⟩

theorem row_of_decodeWord {w : Word} {i : Instr} (h : decodeWord w = .ok i) : ∃ o, rowOf w = some o ∧ i = o.build w := by
  rcases decodeWord_cases w with ⟨o, ho, hd⟩ | ⟨-, hd⟩
  · cases hd.symm.trans h
    exact ⟨o, ho, rfl⟩
  · cases hd.symm.trans h

@[simp] theorem opcode_build (o : Opcode) (w : Word) : (o.build w).opcode = o := by
  cases o <;> rfl

/-- Settles O57: the rows are disjoint, and the decoder builds the instruction of the row it finds. -/
theorem rowsSelectByMaskAndMatch : Obligations.RowsSelectByMaskAndMatch := by
  refine fun w => ⟨fun o ho hw => ?_, fun o _ i hd hi => ?_, fun o ho p hp hwo hwp => tabulated_disjoint ho hp hwo hwp⟩
  · exact decodeWord_of_row (rowOf_of_tabulated ho ((selects_iff o w).2 hw))
  · obtain ⟨p, hp, rfl⟩ := row_of_decodeWord hd
    rw [opcode_build] at hi
    exact (selects_iff o w).1 (hi ▸ selects_of_rowOf hp)

/-! ## Fields of packed operands, format by format (R62, R63) -/

theorem fieldX_or (v w : Word) : fieldX (v ||| w) = fieldX v ||| fieldX w := BitVec.extractLsb'_or
theorem fieldY_or (v w : Word) : fieldY (v ||| w) = fieldY v ||| fieldY w := BitVec.extractLsb'_or
theorem fieldN_or (v w : Word) : fieldN (v ||| w) = fieldN v ||| fieldN w := BitVec.extractLsb'_or
theorem fieldKK_or (v w : Word) : fieldKK (v ||| w) = fieldKK v ||| fieldKK w := BitVec.extractLsb'_or
theorem fieldNNN_or (v w : Word) : fieldNNN (v ||| w) = fieldNNN v ||| fieldNNN w := BitVec.extractLsb'_or

@[simp] theorem fieldNNN_packNNN (nnn : Addr12) : fieldNNN (packNNN nnn) = nnn := by
  apply BitVec.eq_of_getLsbD_eq
  intro i hi
  simp [fieldNNN, packNNN, hi]; omega

@[simp] theorem fieldX_packX (x : RegIx) : fieldX (packX x) = x := by
  apply BitVec.eq_of_getLsbD_eq
  intro i hi
  interval_cases i <;> simp [fieldX, packX]

@[simp] theorem fieldX_packXK (x : RegIx) (kk : Byte) : fieldX (packXK x kk) = x := by
  apply BitVec.eq_of_getLsbD_eq
  intro i hi
  interval_cases i <;> simp [fieldX, packXK, packX]

@[simp] theorem fieldKK_packXK (x : RegIx) (kk : Byte) : fieldKK (packXK x kk) = kk := by
  apply BitVec.eq_of_getLsbD_eq
  intro i hi
  interval_cases i <;> simp [fieldKK, packXK, packX]

@[simp] theorem fieldX_packXY (x y : RegIx) : fieldX (packXY x y) = x := by
  apply BitVec.eq_of_getLsbD_eq
  intro i hi
  interval_cases i <;> simp [fieldX, packXY, packX]

@[simp] theorem fieldY_packXY (x y : RegIx) : fieldY (packXY x y) = y := by
  apply BitVec.eq_of_getLsbD_eq
  intro i hi
  interval_cases i <;> simp [fieldY, packXY, packX]

@[simp] theorem fieldX_packXYN (x y : RegIx) (n : Count) : fieldX (packXYN x y n) = x := by
  apply BitVec.eq_of_getLsbD_eq
  intro i hi
  interval_cases i <;> simp [fieldX, packXYN, packXY, packX]

@[simp] theorem fieldY_packXYN (x y : RegIx) (n : Count) : fieldY (packXYN x y n) = y := by
  apply BitVec.eq_of_getLsbD_eq
  intro i hi
  interval_cases i <;> simp [fieldY, packXYN, packXY, packX]

@[simp] theorem fieldN_packXYN (x y : RegIx) (n : Count) : fieldN (packXYN x y n) = n := by
  apply BitVec.eq_of_getLsbD_eq
  intro i hi
  interval_cases i <;> simp [fieldN, packXYN, packXY, packX]

/-! The match of a row has no bit in the row's operand fields. -/

theorem fieldX_row (o : Opcode) : fieldX (opcodeRow o).bits = 0 := by
  cases o <;> rfl

theorem fieldY_row (o : Opcode) (h : (opcodeRow o).format = .xy ∨ (opcodeRow o).format = .xyn) :
    fieldY (opcodeRow o).bits = 0 := by
  revert h; cases o <;> decide

theorem fieldN_row (o : Opcode) (h : (opcodeRow o).format = .xyn) : fieldN (opcodeRow o).bits = 0 := by
  revert h; cases o <;> decide

theorem fieldKK_row (o : Opcode) (h : (opcodeRow o).format = .xk) : fieldKK (opcodeRow o).bits = 0 := by
  revert h; cases o <;> decide

theorem fieldNNN_row (o : Opcode) (h : (opcodeRow o).format = .a) : fieldNNN (opcodeRow o).bits = 0 := by
  revert h; cases o <;> decide

/-- A row's instruction built from an instruction's own word is that instruction. -/
theorem build_encode (i : Instr) : i.opcode.build (encode i) = i := by
  cases i with
  | clearDisplay | ret => rfl
  | jump | call | loadAddress | jumpWithOffset | sys =>
    simp (disch := decide) [Instr.opcode, Opcode.build, encode, operandBits, fieldNNN_or, fieldNNN_row]
  | skipEqualByte | skipNotEqualByte | loadByte | addByte | randomAndMask =>
    simp (disch := decide) [Instr.opcode, Opcode.build, encode, operandBits, fieldX_or, fieldX_row, fieldKK_or, fieldKK_row]
  | skipEqualReg | skipNotEqualReg | move | orReg | andReg | xorReg | addReg | subReg | shiftRight | subtractReversed
  | shiftLeft =>
    simp (disch := decide) [Instr.opcode, Opcode.build, encode, operandBits, fieldX_or, fieldX_row, fieldY_or, fieldY_row]
  | drawSprite =>
    simp [Instr.opcode, Opcode.build, encode, operandBits, fieldX_or, fieldX_row, fieldY_or, fieldY_row .drawSprite (.inr rfl),
      fieldN_or, fieldN_row .drawSprite rfl]
  | skipIfKeyPressed | skipIfKeyNotPressed | loadDelayTimer | waitForKey | setDelayTimer | setSoundTimer | addToAddress
  | loadFontAddress | storeBcd | storeRegisterBlock | loadRegisterBlock =>
    simp [Instr.opcode, Opcode.build, encode, operandBits, fieldX_or, fieldX_row]

/-- The operands of an instruction leave the fixed bits of its row alone. -/
theorem operandBits_fixed (i : Instr) : operandBits i &&& (opcodeRow i.opcode).mask = 0#16 := by
  cases i with
  | clearDisplay | ret => rfl
  | jump nnn | call nnn | loadAddress nnn | jumpWithOffset nnn | sys nnn => exact Laws.packNNN_fixed nnn
  | skipEqualByte x kk | skipNotEqualByte x kk | loadByte x kk | addByte x kk | randomAndMask x kk =>
    exact Laws.packXK_fixed x kk
  | skipEqualReg x y | skipNotEqualReg x y | move x y | orReg x y | andReg x y | xorReg x y | addReg x y | subReg x y
  | shiftRight x y | subtractReversed x y | shiftLeft x y => exact Laws.packXY_fixed x y
  | drawSprite x y n => exact Laws.packXYN_fixed x y n
  | skipIfKeyPressed x | skipIfKeyNotPressed x | loadDelayTimer x | waitForKey x | setDelayTimer x | setSoundTimer x
  | addToAddress x | loadFontAddress x | storeBcd x | storeRegisterBlock x | loadRegisterBlock x =>
    exact Laws.packX_fixed x

/-- The word of an instruction is selected by the instruction's row. -/
theorem encode_selects (i : Instr) : i.opcode.selects (encode i) = true :=
  (selects_iff _ _).2 (Laws.or_and_fixed _ _ _ (Laws.row_fixed i.opcode) (operandBits_fixed i))

/-! ## Packed fields of a word, format by format -/

theorem packNNN_fieldNNN (w : Word) : packNNN (fieldNNN w) = w &&& 0x0FFF#16 := by
  apply BitVec.eq_of_getLsbD_eq
  intro i hi
  interval_cases i <;> simp [packNNN, fieldNNN]

theorem packX_fieldX (w : Word) : packX (fieldX w) = w &&& 0x0F00#16 := by
  apply BitVec.eq_of_getLsbD_eq
  intro i hi
  interval_cases i <;> simp [packX, fieldX]

theorem packXK_fields (w : Word) : packXK (fieldX w) (fieldKK w) = w &&& 0x0FFF#16 := by
  apply BitVec.eq_of_getLsbD_eq
  intro i hi
  interval_cases i <;> simp [packXK, packX, fieldX, fieldKK]

theorem packXY_fields (w : Word) : packXY (fieldX w) (fieldY w) = w &&& 0x0FF0#16 := by
  apply BitVec.eq_of_getLsbD_eq
  intro i hi
  interval_cases i <;> simp [packXY, packX, fieldX, fieldY]

theorem packXYN_fields (w : Word) : packXYN (fieldX w) (fieldY w) (fieldN w) = w &&& 0x0FFF#16 := by
  apply BitVec.eq_of_getLsbD_eq
  intro i hi
  interval_cases i <;> simp [packXYN, packXY, packX, fieldX, fieldY, fieldN]

/-- The operands read from a word are the bits its row leaves free. -/
theorem operandBits_build (o : Opcode) (w : Word) : operandBits (o.build w) = w &&& ~~~(opcodeRow o).mask := by
  cases o with
  | clearDisplay | ret => exact (BitVec.and_zero (x := w)).symm
  | jump | call | loadAddress | jumpWithOffset | sys => exact packNNN_fieldNNN w
  | skipEqualByte | skipNotEqualByte | loadByte | addByte | randomAndMask => exact packXK_fields w
  | skipEqualReg | skipNotEqualReg | move | orReg | andReg | xorReg | addReg | subReg | shiftRight | subtractReversed
  | shiftLeft => exact packXY_fields w
  | drawSprite => exact packXYN_fields w
  | skipIfKeyPressed | skipIfKeyNotPressed | loadDelayTimer | waitForKey | setDelayTimer | setSoundTimer | addToAddress
  | loadFontAddress | storeBcd | storeRegisterBlock | loadRegisterBlock => exact packX_fieldX w

/-- A word that a row selects is the word of the instruction the row builds from it. -/
theorem encode_build {o : Opcode} {w : Word} (h : o.selects w = true) : encode (o.build w) = w := by
  rw [encode, opcode_build, operandBits_build, ← (selects_iff o w).1 h, ← BitVec.and_or_distrib_left,
    BitVec.or_not_self, BitVec.and_allOnes]

/-! ## Well-formed instructions (R69, R72) -/

theorem eq_sys_of_opcode {i : Instr} (h : i.opcode = .sys) : ∃ nnn, i = .sys nnn := by
  cases i with
  | sys nnn => exact ⟨nnn, rfl⟩
  | _ => cases h

theorem wellFormed_of_ne_sys {i : Instr} (h : i.opcode ≠ .sys) : WellFormed i := by
  cases i with
  | sys nnn => exact absurd rfl h
  | _ => rfl

/-- The two words that `sys` must not have are those of `clear-display` and `return`. -/
theorem wellFormed_sys_iff (nnn : Addr12) : WellFormed (.sys nnn) ↔ nnn ≠ 0x0E0#12 ∧ nnn ≠ 0x0EE#12 := by
  simp [WellFormed, wellFormed]

theorem encode_sys (nnn : Addr12) : encode (.sys nnn) = nnn.setWidth 16 := BitVec.zero_or

theorem encode_sys_inj {nnn mmm : Addr12} (h : encode (.sys nnn) = encode (.sys mmm)) : nnn = mmm := by
  have hbuild := congrArg (Opcode.build · .sys) h
  simpa [Opcode.build, encode, operandBits, fieldNNN_or, fieldNNN_row .sys rfl, Instr.opcode] using hbuild

/-- No tabulated row selects the word of a well-formed `sys`. -/
theorem encode_sys_not_tabulated {nnn : Addr12} (h : WellFormed (.sys nnn)) :
    ∀ p ∈ tabulated, ¬ p.selects (encode (.sys nnn)) = true := by
  intro p hp hsel
  obtain ⟨hE0, hEE⟩ := (wellFormed_sys_iff nnn).1 h
  rw [selects_iff] at hsel
  rcases rows_overlap hp ((selects_iff _ _).1 (encode_selects (.sys nnn))) hsel with rfl | ⟨-, hmem⟩
  · exact absurd rfl ((mem_tabulated_iff _).1 hp)
  · have hword : ∀ v : Word, v &&& 0xFFFF#16 = v := fun v => BitVec.and_allOnes
    rcases List.mem_pair.1 hmem with rfl | rfl
    · exact hE0 (encode_sys_inj ((hword _).symm.trans hsel))
    · exact hEE (encode_sys_inj ((hword _).symm.trans hsel))

/-! ## The obligations of 30_encoding.md section 4 -/

theorem rowOf_encode {i : Instr} (h : WellFormed i) : rowOf (encode i) = some i.opcode := by
  by_cases hsys : i.opcode = .sys
  · obtain ⟨nnn, rfl⟩ := eq_sys_of_opcode hsys
    exact (rowOf_of_no_tabulated (encode_sys_not_tabulated h)).trans (if_pos (encode_selects (.sys nnn)))
  · exact rowOf_of_tabulated ((mem_tabulated_iff _).2 hsys) (encode_selects i)

theorem decodeWord_encode {i : Instr} (h : WellFormed i) : decodeWord (encode i) = .ok i := by
  rw [decodeWord_of_row (rowOf_encode h), build_encode]

/-- The two bytes of a word join to the word. -/
@[simp] theorem joinBytes_hi_lo (w : Word) : joinBytes (hiByte w) (loByte w) = w :=
  BitVec.extractLsb'_append_extractLsb' (w := 8) (len := 8)

theorem decode_cons_cons (hi lo : Byte) (rest : List Byte) :
    decode (hi :: lo :: rest) = (decodeWord (joinBytes hi lo)).map (·, rest) := rfl

/-- Settles O55: an instruction's own row is the one found for its word, and the fields read the operands back. -/
theorem decodeOfEncode : Obligations.DecodeOfEncode := by
  refine fun i h => ⟨decodeWord_encode h, fun rest => ?_⟩
  rw [encodeBytes, List.cons_append, List.cons_append, List.nil_append, decode_cons_cons, joinBytes_hi_lo, decodeWord_encode h]
  rfl

/-- Settles O56: a word is its row's fixed bits and the operand fields, and `sys` is never built from the words of rows 1 and 2. -/
theorem encodeOfDecode : Obligations.EncodeOfDecode := by
  intro w i h
  obtain ⟨o, hrow, rfl⟩ := row_of_decodeWord h
  have hencode : encode (o.build w) = w := encode_build (selects_of_rowOf hrow)
  refine ⟨hencode, ?_⟩
  by_cases hsys : o = .sys
  · subst hsys
    refine (wellFormed_sys_iff _).2 ⟨fun hE0 => ?_, fun hEE => ?_⟩
    · rw [← hencode, Opcode.build, hE0] at hrow
      exact absurd hrow (by decide)
    · rw [← hencode, Opcode.build, hEE] at hrow
      exact absurd hrow (by decide)
  · exact wellFormed_of_ne_sys (by rwa [opcode_build])

/-- Settles O59: each word is decoded by evaluation. -/
theorem sampleWordsDecode : Obligations.SampleWordsDecode :=
  ⟨⟨rfl, rfl, rfl⟩, ⟨rfl, rfl, rfl, rfl, rfl, rfl, rfl, rfl⟩, ⟨rfl, rfl, rfl, rfl, rfl, rfl⟩, rfl⟩

end Sys2Proof

namespace Sys2Proof

/-! ## The fixed bits of a word as numbers -/

/-- The family of a word, `w[15:12]` (30_encoding.md section 2). -/
def fieldOp (w : Word) : BitVec 4 := w.extractLsb' 12 4

/-- A family in its place, bits 15 to 12. -/
def packOp (op : BitVec 4) : Word := op.setWidth 16 <<< 12

theorem toNat_packOp_or (op : BitVec 4) (v : Word) (hv : v.toNat < 2 ^ 12) :
    (packOp op ||| v).toNat = op.toNat * 4096 + v.toNat := by
  have hop : (packOp op).toNat = op.toNat <<< 12 := by
    have := op.isLt
    simp only [packOp, BitVec.toNat_shiftLeft, BitVec.toNat_setWidth, Nat.shiftLeft_eq]
    omega
  rw [BitVec.toNat_or, hop, ← Nat.shiftLeft_add_eq_or_of_lt hv, Nat.shiftLeft_eq]

theorem toNat_fieldOp (w : Word) : (fieldOp w).toNat = w.toNat / 4096 := by
  have := w.isLt
  rw [fieldOp, BitVec.extractLsb'_toNat, Nat.shiftRight_eq_div_pow]
  omega

theorem toNat_and_F000 (w : Word) : (w &&& 0xF000#16).toNat = w.toNat / 4096 * 4096 := by
  have hpack : w &&& 0xF000#16 = packOp (fieldOp w) ||| 0#16 := by
    apply BitVec.eq_of_getLsbD_eq
    intro i hi
    interval_cases i <;> simp [packOp, fieldOp]
  rw [hpack, toNat_packOp_or _ _ (by decide), toNat_fieldOp, BitVec.toNat_ofNat, Nat.zero_mod, Nat.add_zero]

theorem toNat_and_F00F (w : Word) : (w &&& 0xF00F#16).toNat = w.toNat / 4096 * 4096 + w.toNat % 16 := by
  have hpack : w &&& 0xF00F#16 = packOp (fieldOp w) ||| (fieldN w).setWidth 16 := by
    apply BitVec.eq_of_getLsbD_eq
    intro i hi
    interval_cases i <;> simp [packOp, fieldOp, fieldN]
  have hn : ((fieldN w).setWidth 16).toNat = w.toNat % 16 :=
    (BitVec.toNat_setWidth_of_le (by decide)).trans (BitVec.extractLsb'_toNat 0 4 w)
  rw [hpack, toNat_packOp_or _ _ (by omega), toNat_fieldOp, hn]

theorem toNat_and_F0FF (w : Word) : (w &&& 0xF0FF#16).toNat = w.toNat / 4096 * 4096 + w.toNat % 256 := by
  have hpack : w &&& 0xF0FF#16 = packOp (fieldOp w) ||| (fieldKK w).setWidth 16 := by
    apply BitVec.eq_of_getLsbD_eq
    intro i hi
    interval_cases i <;> simp [packOp, fieldOp, fieldKK]
  have hkk : ((fieldKK w).setWidth 16).toNat = w.toNat % 256 :=
    (BitVec.toNat_setWidth_of_le (by decide)).trans (BitVec.extractLsb'_toNat 0 8 w)
  rw [hpack, toNat_packOp_or _ _ (by omega), toNat_fieldOp, hkk]

theorem toNat_and_FFFF (w : Word) : (w &&& 0xFFFF#16).toNat = w.toNat :=
  congrArg BitVec.toNat BitVec.and_allOnes

theorem rowOf_eq_none_iff (w : Word) : rowOf w = none ↔
    ∀ o ∈ tabulated ++ [Opcode.sys], (w &&& (opcodeRow o).mask).toNat ≠ (opcodeRow o).bits.toNat := by
  rw [rowOf, List.find?_eq_none]
  simp only [selects_iff, BitVec.toNat_inj, ne_eq]

theorem decodeWord_eq_error_iff (w : Word) : decodeWord w = .error (.invalidOpcode w) ↔ rowOf w = none := by
  rcases decodeWord_cases w with ⟨o, ho, hd⟩ | ⟨hnone, hd⟩ <;> simp [*]

/-- The words no row selects, family by family, as numbers. -/
theorem rowOf_eq_none_iff_family (w : Word) : rowOf w = none ↔
    (w.toNat / 4096 = 5 ∧ w.toNat % 16 ≠ 0) ∨
    (w.toNat / 4096 = 8 ∧ w.toNat % 16 ∈ [8, 9, 0xA, 0xB, 0xC, 0xD, 0xF]) ∨
    (w.toNat / 4096 = 9 ∧ w.toNat % 16 ≠ 0) ∨ (w.toNat / 4096 = 0xE ∧ w.toNat % 256 ∉ [0x9E, 0xA1]) ∨
    (w.toNat / 4096 = 0xF ∧ w.toNat % 256 ∉ [0x07, 0x0A, 0x15, 0x18, 0x1E, 0x29, 0x33, 0x55, 0x65]) := by
  have hop : w.toNat / 4096 < 16 := by have := w.isLt; omega
  have hn : w.toNat % 16 < 16 := Nat.mod_lt _ (by decide)
  have hkk : w.toNat % 256 < 256 := Nat.mod_lt _ (by decide)
  have hsum : w.toNat = w.toNat / 4096 * 4096 + w.toNat % 4096 := by omega
  rw [rowOf_eq_none_iff]
  simp only [tabulated, List.cons_append, List.nil_append, List.forall_mem_cons, opcodeRow, toNat_and_F000, toNat_and_F00F,
    toNat_and_F0FF, toNat_and_FFFF, BitVec.ofNat_eq_ofNat]
  generalize w.toNat / 4096 = op, w.toNat % 16 = n, w.toNat % 256 = kk at *
  interval_cases op <;> simp <;> omega

/-- Settles O58: no row selects the invalid words of the five families, and a `0nnn` is the word of its `sys`. -/
theorem invalidWordsByFamily : Obligations.InvalidWordsByFamily := by
  refine ⟨fun w => (decodeWord_eq_error_iff w).trans (rowOf_eq_none_iff_family w), fun nnn hE0 hEE => ?_⟩
  have hword : 0#4 ++ nnn = encode (.sys nnn) := by
    rw [encode_sys]
    exact (BitVec.setWidth_eq_append (by decide)).symm
  rw [hword]
  exact decodeWord_encode ((wellFormed_sys_iff nnn).2 ⟨hE0, hEE⟩)

end Sys2Proof

namespace Sys2Proof.Machine

/-! ## Reset, `Load`, boot, `Tick`, `Observe` (10_state.md sections 8 and 9, 20_memory.md section 2) -/

/-- A byte past the font that nothing has written is zero. -/
theorem baseByte_of_past_font {a : Nat} (h : 80 ≤ a) : baseByte a = 0 := by
  have hlen : params.font.length = 80 := rfl
  rw [baseByte, params_fontBase, if_neg (Nat.not_lt_zero a), List.getElem?_eq_none (by omega)]
  rfl

theorem reset_reg (x : RegIx) : State.reset.reg x = 0 := Vector.getElem_replicate _

theorem reset_slot {j : Nat} (h : j < 16) : State.reset.slot j = some 0 := by
  rw [State.slot, Vector.getElem?_eq_getElem h]
  exact congrArg some (Vector.getElem_replicate h)

/-- Settles O1: the state written out by `Reset`, with the font below address 80 read off and zero above it. -/
theorem resetLeavesTheResetTable : Obligations.ResetLeavesTheResetTable :=
  ⟨reset_reg, rfl, rfl, rfl, fun _ => reset_slot, rfl, rfl, rfl, rfl, rfl, fun a => Pix.byte_fill 0 (a / 8) (a % 8),
    by decide, by decide, fun _ => baseByte_of_past_font, fun _ => rfl⟩

/-- A byte inside a block written in range is the block's byte. -/
theorem byteAt_setBytes_inside {s : State} (hwf : s.mem.wf) {base : Nat} {bs : List Byte} (hr : base + bs.length ≤ 4096)
    {k : Nat} (hk : k < bs.length) : (s.setBytes base bs).byteAt (base + k) = bs[k] := by
  rw [s.byteAt_setBytes base bs _ hwf hr, if_pos (Nat.le_add_right base k), Nat.add_sub_cancel_left,
    List.getElem?_eq_getElem hk, Option.getD_some]

/-- A byte outside a block written in range is the old byte. -/
theorem byteAt_setBytes_outside {s : State} (hwf : s.mem.wf) {base : Nat} {bs : List Byte} (hr : base + bs.length ≤ 4096)
    {a : Nat} (ha : a < base ∨ base + bs.length ≤ a) : (s.setBytes base bs).byteAt a = s.byteAt a := by
  rw [s.byteAt_setBytes base bs a hwf hr]
  split
  · rw [List.getElem?_eq_none (by omega), Option.getD_none]
  · rfl

/-- Settles O2: the bounds are checked first, then the bytes are written as one block. -/
theorem loadCopiesTheBytesOrFaults : Obligations.LoadCopiesTheBytesOrFaults := by
  refine fun s bytes start hwf => ⟨fun hfits => ?_, fun hpast => ?_⟩
  · refine ⟨_, handle_load_of_fits hfits, fun k hk => ?_, fun a ha => byteAt_setBytes_outside hwf hfits ha,
      s.setBytes_pc start bytes, (Frame.refl _ s).setBytes List.mem_cons_self start bytes⟩
    rw [byteAt_setBytes_inside hwf hfits hk, List.getElem?_eq_getElem hk]
  · exact ⟨handle_load_of_past hpast, after_of_fault (handle_load_of_past hpast)⟩

/-- Settles O3: the two bytes loaded at 0x200 are those the reset `PC` fetches. -/
theorem bootRunsTheFirstLoadedInstruction : Obligations.BootRunsTheFirstLoadedInstruction := by
  intro s hi lo rest i hlen hd
  have hfits : 0x200 + (hi :: lo :: rest).length ≤ 4096 := by simp only [List.length_cons]; omega
  have hwf : (resetCore s).mem.wf := inv_wf invariantHoldsAtReset
  refine ⟨(resetCore s).setBytes 0x200 (hi :: lo :: rest), handle_load_of_fits hfits, ?pc, ?step⟩
  case pc => rw [State.setBytes_pc]; rfl
  case step =>
    generalize hu : (resetCore s).setBytes 0x200 (hi :: lo :: rest) = u
    have hpc : u.pc.toNat = 0x200 := by rw [← hu, State.setBytes_pc]; rfl
    have hhi : u.byteAt 0x200 = hi := hu ▸ byteAt_setBytes_inside hwf hfits (k := 0) (by simp)
    have hlo : u.byteAt 0x201 = lo := hu ▸ byteAt_setBytes_inside hwf hfits (k := 1) (by simp)
    have hfetched : u.fetched = joinBytes hi lo := by rw [State.fetched, hpc, hhi, hlo]
    have hfree : u.kwBlocked = false := by rw [← hu, State.setBytes_kwBlocked]; rfl
    exact (step_of_decoded ⟨by omega, hfree⟩ (hfetched ▸ hd)).2

/-- Settles O4: `Tick` counts each timer down and writes nothing else. -/
theorem tickCountsBothTimersDown : Obligations.TickCountsBothTimersDown := fun s =>
  ⟨tick s, rfl, countDown_toNat s.dt, countDown_toNat s.st, rfl, (Frame.refl _ s).tick (by simp) (by simp)⟩

/-- Settles O6: the outputs are read off the state. -/
theorem observeShowsTheOutputs : Obligations.ObserveShowsTheOutputs := fun s =>
  ⟨rfl, rfl, Iff.rfl, bne_iff_ne, s.halted_iff, fun _ _ => rfl⟩

/-! ## The step (40_step_and_dispatch.md) -/

theorem toNat_joinBytes (hi lo : Byte) : (joinBytes hi lo).toNat = hi.toNat * 256 + lo.toNat := by
  rw [joinBytes, BitVec.toNat_append, ← Nat.shiftLeft_add_eq_or_of_lt lo.isLt, Nat.shiftLeft_eq]

/-- Settles O7: the step runs what it decodes, and the two bytes are the word's digits in base 256. -/
theorem stepRunsTheDecodedInstruction : Obligations.StepRunsTheDecodedInstruction := fun _ _ hf hd =>
  ⟨(step_of_decoded hf hd).2, toNat_joinBytes _ _⟩

/-- What a step reports, from its branch and its answer. -/
theorem report_of_step {s : State} {b : Branch} {r : Result} (h : branchOf s = b ∧ step s = r) :
    report s = reportOf r b := by
  rw [report, h.1, show cycle s = r from h.2]

/-- A step that goes on reports what its branch is (40_step_and_dispatch.md R89). -/
theorem report_run {t : State} {w : Word} {i : Instr} (h : i.opcode ≠ .sys) : reportOf (.next t) (.run w i) = .executed := by
  cases i with
  | sys nnn => exact absurd rfl h
  | _ => rfl

/-- Settles O9: the halt check stands first, and neither branch has an effect. -/
theorem haltedAndBlockedStepsChangeNothing : Obligations.HaltedAndBlockedStepsChangeNothing := by
  refine fun s => ⟨fun h => ?_, fun hpc hk hkey => ?_⟩
  · exact ⟨(step_of_halted h).2, report_of_step (step_of_halted h)⟩
  · exact ⟨(step_of_blocked hpc hk hkey).2, report_of_step (step_of_blocked hpc hk hkey)⟩

theorem toNat_zextDigit (k : Digit) : (zextDigit k).toNat = k.toNat := BitVec.toNat_setWidth_of_le (by decide)

/-- Settles O10: the key-resolving branch writes the target register and the key-wait state. -/
theorem blockedStepWithKeyResolves : Obligations.BlockedStepWithKeyResolves := by
  intro s k hpc hk hkey
  have hreg : ((resolveKey k s).reg s.kwTarget).toNat = k.toNat := by
    rw [resolveKey_reg, if_pos rfl, toNat_zextDigit]
  exact ⟨_, (step_of_key hpc hk hkey).2, hreg, rfl, rfl, rfl, (Frame.refl _ s).resolveKey (by simp) (by simp) k,
    report_of_step (step_of_key hpc hk hkey)⟩

theorem exec_sys (nnn : Addr12) (s : State) : exec (.sys nnn) s = .next s.advance := rfl

/-- Settles O11: the report of a running instruction is its answer's. -/
theorem fetchingStepReportsItsOutcome : Obligations.FetchingStepReportsItsOutcome := by
  intro s i hf hd
  have hreport := report_of_step (step_of_decoded hf hd)
  refine ⟨fun t ht hsys => ?_, fun nnn hi => ?_, fun f hfault => ?_⟩
  · rw [hreport, ht]
    exact report_run fun h => (eq_sys_of_opcode h).elim hsys
  · rw [hreport, hi]
    rfl
  · rw [hreport, hfault]
    rfl

/-- Settles O8: such a word is either invalid or that of `sys`, and both only advance. -/
theorem invalidOpcodeOnlyAdvances : Obligations.InvalidOpcodeOnlyAdvances := by
  intro s hf hno
  have hrow := rowOf_of_no_tabulated fun o ho h => hno o ho ((selects_iff o s.fetched).1 h)
  have hadvance : ∀ b, branchOf s = b ∧ step s = .next s.advance → reportOf (.next s.advance) b = .executedInvalid s.fetched →
      ∃ t, step s = .next t ∧ t.pc = s.pc + 2 ∧ Frame [] s t ∧ report s = .executedInvalid s.fetched :=
    fun b hb hr => ⟨_, hb.2, rfl, (Frame.refl [] s).advance, (report_of_step hb).trans hr⟩
  rcases Bool.eq_false_or_eq_true (Opcode.sys.selects s.fetched) with hsys | hsys
  · exact hadvance _ (step_of_decoded hf (decodeWord_of_row (hrow.trans (if_pos hsys)))) rfl
  · exact hadvance _ (step_of_invalid hf (decodeWord_of_no_row (hrow.trans (by simp [hsys])))) rfl

/-! ## The random input (42_arithmetic_logic.md R125) -/

theorem exec_randomAndMask (x : RegIx) (kk : Byte) (s : State) :
    exec (.randomAndMask x kk) s = .next (s.useRandom.setReg x (s.random &&& kk)).advance := rfl

/-- Settles O28: the byte is the first the host has fixed, or the next free one. -/
theorem randomByteIsMasked : Obligations.RandomByteIsMasked := by
  intro s x kk
  refine ⟨_, s.random, exec_randomAndMask x kk s, by simp, by simp, ?frame, ?fixed, ?free⟩
  case frame => exact (((Frame.refl _ s).useRandom (by simp)).setReg (by simp) _).advance
  case fixed => intro r rs h; simp [State.random, State.useRandom, h]
  case free => intro h; simp [State.random, State.useRandom, h]

/-- Settles O12: the fed byte is the one used, and the input is put back. -/
theorem stepEventFeedsItsRandomByte : Obligations.StepEventFeedsItsRandomByte := by
  intro s rnd x kk hf hd
  have hstep : step (s.fed rnd) = exec (.randomAndMask x kk) (s.fed rnd) := (step_of_decoded (s := s.fed rnd) hf hd).2
  have hevent : handle s (.step rnd) = .next (s.setReg x (rnd &&& kk)).advance := by
    rw [show handle s (.step rnd) = withInput s.rndInput (step (s.fed rnd)) from rfl, hstep]
    rfl
  exact ⟨_, hevent, by simp, rfl, ((Frame.refl _ s).setReg List.mem_cons_self _).advance⟩

end Sys2Proof.Machine

namespace Sys2Proof.Machine

/-! ## The stack (41_control_flow.md) -/

/-- Settles O15: the pushed entry is the only one that changes. -/
theorem callPushesTheAddressAfterIt : Obligations.CallPushesTheAddressAfterIt := by
  intro s nnn h
  have hslot := fun j => s.slot_push s.nextPc j (by omega)
  have hsp : (s.sp + 1#8).toNat = s.sp.toNat + 1 := by bv_omega
  refine ⟨_, exec_call_of_room nnn h, toNat_zextAddr nnn, hsp, (hslot _).trans (if_pos rfl),
    fun j hj => (hslot j).trans (if_neg hj), ?_⟩
  exact ((Frame.refl _ s).push (by simp) (by simp) s.nextPc).jumpTo _

/-- Settles O16: with an address held the top exists, and only `SP` and `PC` move. -/
theorem returnPopsTheStack : Obligations.ReturnPopsTheStack := by
  intro s h1 h16
  rcases s.top_cases with ⟨h, -⟩ | ⟨w, -, -, hslot, htop⟩
  · omega
  · have hsp : (s.sp - 1#8).toNat = s.sp.toNat - 1 := by bv_omega
    exact ⟨_, exec_ret_of_top htop, hslot, hsp, ((Frame.refl _ s).pop (by simp)).jumpTo w⟩

/-- Settles O17: the two traps of the stack. -/
theorem stackLimitsFault : Obligations.StackLimitsFault :=
  ⟨fun _ nnn h => exec_of_trap (.call nnn h), fun _ h => exec_of_trap (.ret (.inl h))⟩

/-- Settles O18: the entry pushed is the one popped, wherever the body left `PC` and the rest. -/
theorem callThenReturnComesBack : Obligations.CallThenReturnComesBack := by
  intro s nnn h
  obtain ⟨t, hcall, hpc, hsp, hslot, -, -⟩ := callPushesTheAddressAfterIt s nnn h
  refine ⟨t, hcall, hpc, fun b hbsp hbstack => ?_⟩
  obtain ⟨u, hret, htop, husp, hframe⟩ := returnPopsTheStack b (by rw [hbsp]; omega) (by rw [hbsp]; omega)
  have hindex : b.sp.toNat - 1 = s.sp.toNat := by rw [hbsp]; omega
  have hpopped : some u.pc = some (s.pc + 2) := by rw [← htop, ← hslot, hindex, State.slot, hbstack, State.slot]
  exact ⟨u, hret, Option.some.inj hpopped, BitVec.eq_of_toNat_eq (husp.trans hindex), hframe⟩

theorem exec_jumpWithOffset (nnn : Addr12) (s : State) :
    exec (.jumpWithOffset nnn) s = .next (s.jumpTo (s.offsetTarget nnn)) := rfl

/-- Settles O21: a 12-bit and an 8-bit number have a 16-bit sum. -/
theorem jumpWithOffsetAddsRegisterZero : Obligations.JumpWithOffsetAddsRegisterZero := fun s nnn =>
  ⟨_, exec_jumpWithOffset nnn s, s.toNat_offsetTarget nnn, (Frame.refl [] s).jumpTo _⟩

/-- Settles O44: `sys` is `advance`. -/
theorem sysOnlyAdvances : Obligations.SysOnlyAdvances := fun s nnn =>
  ⟨_, exec_sys nnn s, rfl, (Frame.refl [] s).advance⟩

/-! ## Arithmetic (42_arithmetic_logic.md) -/

theorem exec_move (x y : RegIx) (s : State) : exec (.move x y) s = .next (s.setReg x (s.reg y)).advance := rfl

/-- Settles O23: one register write. -/
theorem moveCopiesARegister : Obligations.MoveCopiesARegister := fun s x y => exec_setReg_spec (exec_move x y s)

theorem exec_addReg (x y : RegIx) (s : State) : exec (.addReg x y) s =
    .next (s.setFlagThenReg (carryFlag (s.reg x) (s.reg y)) x (s.reg x + s.reg y)).advance := rfl

theorem exec_subReg (x y : RegIx) (s : State) : exec (.subReg x y) s =
    .next (s.setFlagThenReg (greaterFlag (s.reg x) (s.reg y)) x (s.reg x - s.reg y)).advance := rfl

theorem exec_subtractReversed (x y : RegIx) (s : State) : exec (.subtractReversed x y) s =
    .next (s.setFlagThenReg (greaterFlag (s.reg y) (s.reg x)) x (s.reg y - s.reg x)).advance := rfl

/-- The shifts read `V[x]` (decision D10). -/
theorem exec_shiftRight (x y : RegIx) (s : State) : exec (.shiftRight x y) s =
    .next (s.setFlagThenReg (lowBitFlag (s.reg x)) x (s.reg x >>> 1)).advance := rfl

theorem exec_shiftLeft (x y : RegIx) (s : State) : exec (.shiftLeft x y) s =
    .next (s.setFlagThenReg (highBitFlag (s.reg x)) x (s.reg x <<< 1)).advance := rfl

/-- The one argument about every instruction that writes a flag and then a register: the register holds the result even as `VF`, and
another `VF` holds the flag. -/
theorem exec_setFlagThenReg_spec {s : State} {i : Instr} {x : RegIx} {f b : Byte}
    (he : exec i s = .next (s.setFlagThenReg f x b).advance) :
    ∃ t, exec i s = .next t ∧ t.reg x = b ∧ (x ≠ 15 → t.reg 15 = f) ∧ t.pc = s.pc + 2 ∧ Frame [.reg x, .reg 15] s t := by
  have hreg : (s.setFlagThenReg f x b).advance.reg x = b := by simp
  have hflag : x ≠ 15 → (s.setFlagThenReg f x b).advance.reg 15 = f := fun hx => by
    have hne : 15#4 ≠ x := fun h => hx h.symm
    simp [hne]
  exact ⟨_, he, hreg, hflag, rfl, ((Frame.refl _ s).setFlagThenReg (by simp) (by simp) f b).advance⟩

theorem toNat_flagOf (c : Bool) : (flagOf c).toNat = c.toNat := by cases c <;> rfl

theorem carryFlag_eq (a b : Byte) : carryFlag a b = if 255 < a.toNat + b.toNat then 1 else 0 := by
  simp only [carryFlag, flagOf, decide_eq_true_eq]

/-- Equal operands give the flag 0 (decision D8). -/
theorem greaterFlag_eq (a b : Byte) : greaterFlag a b = if b.toNat < a.toNat then 1 else 0 := by
  simp only [greaterFlag, params_subFlagOnEqual, BitVec.ofNat_eq_ofNat, ite_self]

theorem toNat_lowBitFlag (a : Byte) : (lowBitFlag a).toNat = a.toNat % 2 := by
  rw [lowBitFlag, toNat_flagOf, BitVec.getLsbD, Nat.testBit_zero]
  rcases Nat.mod_two_eq_zero_or_one a.toNat with h | h <;> simp [h]

theorem toNat_highBitFlag (a : Byte) : (highBitFlag a).toNat = a.toNat / 128 := by
  have := a.isLt
  have hdiv : a.toNat / 128 = 0 ∨ a.toNat / 128 = 1 := by omega
  rw [highBitFlag, toNat_flagOf, BitVec.getLsbD, Nat.testBit_eq_decide_div_mod_eq]
  rcases hdiv with h | h <;> simp [h]

/-- Settles O25: the sum of bytes is the sum of the naturals modulo 256, and the flag is its carry. -/
theorem addWritesSumAndCarry : Obligations.AddWritesSumAndCarry := by
  intro s x y
  obtain ⟨t, he, hreg, hflag, hpc, hframe⟩ := exec_setFlagThenReg_spec (exec_addReg x y s)
  exact ⟨t, he, hreg ▸ BitVec.toNat_add _ _, fun hx => (hflag hx).trans (carryFlag_eq _ _), hpc, hframe⟩

/-- A difference of bytes as naturals. -/
theorem toNat_sub_byte (a b : Byte) : (a - b).toNat = (a.toNat + 256 - b.toNat) % 256 := by
  have := b.isLt
  rw [BitVec.toNat_sub]
  congr 1
  omega

/-- Settles O26: each is a difference of bytes with the flag of its own minuend. -/
theorem subtractionsWriteDifferenceAndFlag : Obligations.SubtractionsWriteDifferenceAndFlag := by
  intro s x y
  constructor
  · obtain ⟨t, he, hreg, hflag, hpc, hframe⟩ := exec_setFlagThenReg_spec (exec_subReg x y s)
    exact ⟨t, he, hreg ▸ toNat_sub_byte _ _, fun hx => (hflag hx).trans (greaterFlag_eq _ _), hpc, hframe⟩
  · obtain ⟨t, he, hreg, hflag, hpc, hframe⟩ := exec_setFlagThenReg_spec (exec_subtractReversed x y s)
    exact ⟨t, he, hreg ▸ toNat_sub_byte _ _, fun hx => (hflag hx).trans (greaterFlag_eq _ _), hpc, hframe⟩

/-- Settles O27: a shift by one is half and double, and the flags are the lowest and the highest bit. -/
theorem shiftsMoveOneBitOut : Obligations.ShiftsMoveOneBitOut := by
  intro s x y
  constructor
  · obtain ⟨t, he, hreg, hflag, hpc, hframe⟩ := exec_setFlagThenReg_spec (exec_shiftRight x y s)
    have hhalf : (s.reg x >>> 1).toNat = (s.reg x).toNat / 2 := by
      rw [BitVec.toNat_ushiftRight, Nat.shiftRight_eq_div_pow, Nat.pow_one]
    exact ⟨t, he, hreg ▸ hhalf, fun hx => hflag hx ▸ toNat_lowBitFlag _, hpc, hframe⟩
  · obtain ⟨t, he, hreg, hflag, hpc, hframe⟩ := exec_setFlagThenReg_spec (exec_shiftLeft x y s)
    have hdouble : (s.reg x <<< 1).toNat = (s.reg x).toNat * 2 % 256 := by
      rw [BitVec.toNat_shiftLeft, Nat.shiftLeft_eq, Nat.pow_one]
    exact ⟨t, he, hreg ▸ hdouble, fun hx => hflag hx ▸ toNat_highBitFlag _, hpc, hframe⟩

/-- Settles O29: the second register is kept by the sum, and bytes are a group. -/
theorem addThenSubRestores : Obligations.AddThenSubRestores := by
  intro s x y hxy hx hy
  refine ⟨_, _, exec_addReg x y s, exec_subReg x y _, fun z hz => ?_⟩
  have hx15 : x ≠ 15#4 := hx
  have hy15 : y ≠ 15#4 := hy
  have hz15 : z ≠ 15#4 := hz
  by_cases hzx : z = x
  · simp [hzx, hxy.symm, hy15]
  · simp [hzx, hz15]

/-! ## Keys (44_timers_and_keys.md) -/

theorem exec_skipIfKeyPressed (x : RegIx) (s : State) :
    exec (.skipIfKeyPressed x) s = .next (s.skipIf (s.keyPressed (s.reg x))) := rfl

theorem exec_skipIfKeyNotPressed (x : RegIx) (s : State) :
    exec (.skipIfKeyNotPressed x) s = .next (s.skipIf (!s.keyPressed (s.reg x))) := rfl

/-- The whole register is compared with the digit held (R141). -/
theorem State.keyPressed_iff (s : State) (a : Byte) :
    s.keyPressed a = true ↔ ∃ k, s.key = some k ∧ a.toNat = k.toNat := by
  cases h : s.key with
  | none => simp [State.keyPressed, h]
  | some k =>
    have hbyte : zextDigit k = a ↔ a.toNat = k.toNat := by rw [← BitVec.toNat_inj, toNat_zextDigit, eq_comm]
    simp [State.keyPressed, h, hbyte]

/-- Settles O33: both skips test whether the register holds the key, one of them negated. -/
theorem keySkipsTestTheHeldKey : Obligations.KeySkipsTestTheHeldKey := by
  intro s x
  have hframe := fun c => (Frame.refl [] s).skipIf c
  have hiff := s.keyPressed_iff (s.reg x)
  refine ⟨⟨_, exec_skipIfKeyPressed x s, fun h => ?_, fun h => ?_, hframe _⟩,
    ⟨_, exec_skipIfKeyNotPressed x s, fun h => ?_, fun h => ?_, hframe _⟩⟩
  · simp [hiff.2 h]
  · simp [Bool.eq_false_iff.2 (mt hiff.1 h)]
  · simp [hiff.2 h]
  · simp [Bool.eq_false_iff.2 (mt hiff.1 h)]

theorem exec_waitForKey (x : RegIx) (s : State) :
    exec (.waitForKey x) s = .next ({ s with kwBlocked := true, kwTarget := x } : State).advance := rfl

/-- Settles O35: the key-wait state alone is written. -/
theorem waitForKeyBlocks : Obligations.WaitForKeyBlocks := fun s x =>
  ⟨_, exec_waitForKey x s, rfl, rfl, rfl, ((Frame.refl _ s).withKeyWait List.mem_cons_self true x).advance⟩

/-- Settles O36: a blocked Core without a key stays as it is, and the first step with one resolves the wait. -/
theorem waitForKeyScenario : Obligations.WaitForKeyScenario := by
  intro s t x k waits hpc hkey ht
  cases (exec_waitForKey x s).symm.trans ht
  generalize hw : ({ s with kwBlocked := true, kwTarget := x } : State).advance = w
  have hblocked : w.kwBlocked = true := hw ▸ rfl
  have hnokey : w.key = none := hw ▸ hkey
  have hwpc : w.pc = s.pc + 2 := hw ▸ rfl
  have hwaits : runEvents w (waits.map .step) = w := by
    refine runEvents_keeps (P := (· = w)) (kind := fun e => ∃ r, e = .step r) (fun u e he hu => ?_) (by simp) rfl
    obtain ⟨r, rfl⟩ := he
    exact hu ▸ after_step_of_blocked hblocked hnokey r
  refine ⟨hwaits, ?_⟩
  rw [hwaits, after_keyUpdate]
  have hle : w.pc.toNat ≤ 4094 := by rw [hwpc]; bv_omega
  have hwreg : ∀ z, w.reg z = s.reg z := fun z => hw ▸ rfl
  have htarget : w.kwTarget = x := hw ▸ rfl
  refine ⟨_, (step_of_key (s := keyUpdate (some k) w) (k := k) hle hblocked rfl).2, ?_, rfl, hwpc, fun z hz => ?_⟩
  · simp [htarget, toNat_zextDigit]
  · simp [htarget, hz, hwreg]

end Sys2Proof.Machine

namespace Sys2Proof.Machine

/-! ## Memory through the address register (45_address_and_memory.md) -/

theorem exec_loadFontAddress (x : RegIx) (s : State) :
    exec (.loadFontAddress x) s = .next ({ s with i := (glyphAddress (s.reg x)).getD s.i } : State).advance := rfl

/-- Settles O38: `I` is written with the glyph's address, or with itself. -/
theorem loadFontAddressPointsAtTheGlyph : Obligations.LoadFontAddressPointsAtTheGlyph := by
  intro s x
  obtain ⟨t, he, hi, hpc, hframe⟩ := exec_setI_spec (exec_loadFontAddress x s)
  refine ⟨t, he, fun hle => ?_, fun hlt => ?_, hpc, hframe⟩
  · rw [hi, glyphAddress, if_pos hle, Option.getD_some, BitVec.toNat_ofNat, params_fontBase, params_glyphBytes]
    omega
  · rw [hi, glyphAddress, if_neg (Nat.not_le.2 hlt), Option.getD_none]

/-- Settles O42: the four traps of the memory instructions. -/
theorem accessPastTheEndFaults : Obligations.AccessPastTheEndFaults := fun _ x y n =>
  ⟨fun h => exec_of_trap (.bcd x h), fun h => exec_of_trap (.store x h), fun h => exec_of_trap (.load x h),
    fun hn h => exec_of_trap (.sprite x y n hn h)⟩

/-- The one argument about the two stores: in range the block is in memory, every other byte and all else is kept. -/
theorem exec_store_spec {s : State} {i : Instr} {bs : List Byte}
    (he : exec i s = withRange s.base bs.length (s.setBytes s.base bs).advance) (hwf : s.mem.wf)
    (hr : s.base + bs.length ≤ 4096) :
    ∃ t, exec i s = .next t ∧ t.mem.wf ∧ (∀ k (hk : k < bs.length), t.byteAt (s.base + k) = bs[k]) ∧
      (∀ a, a < s.base ∨ s.base + bs.length ≤ a → t.byteAt a = s.byteAt a) ∧ t.pc = s.pc + 2 ∧ Frame [.mem] s t :=
  ⟨_, he.trans (withRange_of_fits _ (.inr hr)), s.wf_setBytes s.base bs hwf hr, fun _ hk => byteAt_setBytes_inside hwf hr hk,
    fun _ ha => byteAt_setBytes_outside hwf hr ha, by simp, ((Frame.refl _ s).setBytes List.mem_cons_self s.base bs).advance⟩

theorem exec_storeBcd (x : RegIx) (s : State) : exec (.storeBcd x) s =
    withRange s.base (bcdDigits (s.reg x)).length (s.setBytes s.base (bcdDigits (s.reg x))).advance := rfl

/-- Settles O39: the block of the three digits is stored. -/
theorem storeBcdStoresThreeDigits : Obligations.StoreBcdStoresThreeDigits := by
  intro s x hwf hr
  obtain ⟨t, he, -, hin, hout, hpc, hframe⟩ := exec_store_spec (exec_storeBcd x s) hwf hr
  have := (s.reg x).isLt
  have hhundreds : t.byteAt s.base = BitVec.ofNat 8 ((s.reg x).toNat / 100) := hin 0 (by simp [bcdDigits])
  have htens : t.byteAt (s.base + 1) = BitVec.ofNat 8 ((s.reg x).toNat / 10 % 10) := hin 1 (by simp [bcdDigits])
  have hones : t.byteAt (s.base + 2) = BitVec.ofNat 8 ((s.reg x).toNat % 10) := hin 2 (by simp [bcdDigits])
  refine ⟨t, he, ?_, ?_, ?_, hout, hpc, hframe⟩
  · rw [hhundreds, BitVec.toNat_ofNat]
    omega
  · rw [htens, BitVec.toNat_ofNat]
    omega
  · rw [hones, BitVec.toNat_ofNat]
    omega

theorem exec_storeRegisterBlock (x : RegIx) (s : State) : exec (.storeRegisterBlock x) s =
    withRange s.base (s.regBlock x).length (s.setBytes s.base (s.regBlock x)).advance := by
  rw [State.length_regBlock]
  rfl

theorem State.getElem_regBlock (s : State) (x k : RegIx) (h : k.toNat < (s.regBlock x).length) :
    (s.regBlock x)[k.toNat] = s.reg k := by
  have hle : k.toNat ≤ x.toNat := by rw [State.length_regBlock, blockSize] at h; omega
  rw [List.getElem_eq_iff, State.getElem?_regBlock, if_pos hle, toNat_regIx]

/-- `store-register-block` in range: the registers are in memory, which stays in canonical form. -/
theorem exec_storeRegisterBlock_spec {s : State} {x : RegIx} (hwf : s.mem.wf) (hr : s.base + blockSize x ≤ 4096) :
    ∃ t, exec (.storeRegisterBlock x) s = .next t ∧ t.mem.wf ∧
      (∀ k : RegIx, k.toNat ≤ x.toNat → t.byteAt (s.base + k.toNat) = s.reg k) ∧
      (∀ a, a < s.base ∨ s.base + blockSize x ≤ a → t.byteAt a = s.byteAt a) ∧ t.pc = s.pc + 2 ∧ Frame [.mem] s t := by
  have hlen := s.length_regBlock x
  obtain ⟨t, he, hwft, hin, hout, hpc, hframe⟩ := exec_store_spec (exec_storeRegisterBlock x s) hwf (hlen ▸ hr)
  refine ⟨t, he, hwft, fun k hk => ?_, hlen ▸ hout, hpc, hframe⟩
  have hk' : k.toNat < (s.regBlock x).length := hlen ▸ Nat.lt_succ_of_le hk
  rw [hin k.toNat hk', State.getElem_regBlock]

/-- Settles O40: the block of registers is stored. -/
theorem storeBlockStoresTheRegisters : Obligations.StoreBlockStoresTheRegisters := by
  intro s x hwf hr
  obtain ⟨t, he, -, hspec⟩ := exec_storeRegisterBlock_spec hwf hr
  exact ⟨t, he, hspec⟩

/-- Settles O13: the next `PC` is `I`, where `V[0]` and `V[1]` have just been stored. -/
theorem storeIsSeenByTheNextFetch : Obligations.StoreIsSeenByTheNextFetch := by
  intro s x hwf hx hi hr
  obtain ⟨t, he, -, hstored, -, hpc, -⟩ := exec_storeRegisterBlock_spec (x := x) hwf hr
  have hnext : t.pc.toNat = s.base := by rw [hpc, ← hi, State.base]
  have hhi : t.byteAt s.base = s.reg 0 := hstored 0 (Nat.zero_le _)
  have hlo : t.byteAt (s.base + 1) = s.reg 1 := hstored 1 hx
  exact ⟨t, he, by rw [State.fetched, hnext, hhi, hlo]⟩

theorem exec_loadRegisterBlock (x : RegIx) (s : State) : exec (.loadRegisterBlock x) s =
    withRange s.base (blockSize x) (s.setRegs 0 (s.bytesAt s.base (blockSize x))).advance := rfl

/-- `load-register-block` in range leaves this state. -/
theorem exec_loadRegisterBlock_of_fits {s : State} {x : RegIx} (hr : s.base + blockSize x ≤ 4096) :
    exec (.loadRegisterBlock x) s = .next (s.setRegs 0 (s.bytesAt s.base (blockSize x))).advance :=
  (exec_loadRegisterBlock x s).trans (withRange_of_fits _ (.inr hr))

/-- Settles O41: the registers up to `x` are written from the bytes read, and those above are not. -/
theorem loadBlockLoadsTheRegisters : Obligations.LoadBlockLoadsTheRegisters := by
  intro s x hr
  have hlen := s.length_bytesAt s.base (blockSize x)
  have hxlt := x.isLt
  refine ⟨_, exec_loadRegisterBlock_of_fits hr, fun k hk => ?_, fun k hk => ?_, by simp, ?_⟩
  · rw [State.reg_advance, State.reg_setRegs _ _ _ _ (by rw [hlen, blockSize]; omega), if_pos (Nat.zero_le _),
      State.getElem?_bytesAt, Nat.sub_zero, if_pos (show k.toNat < blockSize x from Nat.lt_succ_of_le hk), Option.getD_some]
  · exact s.reg_setRegs_of_below _ (hlen.trans_le hk)
  · refine ((Frame.refl _ s).setRegs _ fun k hk => ?_).advance
    rw [hlen]
    exact Nat.lt_of_not_le (mt (reg_mem_regsUpTo x k).2 hk)

/-- Settles O43: each byte of the block is stored where it was loaded from, and canonical memories that read the same are equal. -/
theorem loadBlockThenStoreBlockIsIdentity : Obligations.LoadBlockThenStoreBlockIsIdentity := by
  intro s x hwf hr
  have hxlt := x.isLt
  obtain ⟨t, hload, hloaded, -, -, -⟩ := loadBlockLoadsTheRegisters s x hr
  cases hload.symm.trans (exec_loadRegisterBlock_of_fits hr)
  generalize ht : (s.setRegs 0 (s.bytesAt s.base (blockSize x))).advance = t at *
  have hmem : t.mem = s.mem := by rw [← ht]; simp
  have hbase : t.base = s.base := by rw [← ht]; simp [State.base]
  obtain ⟨u, hstore, hwfu, hin, hout, -, hframe⟩ :=
    exec_storeRegisterBlock_spec (s := t) (x := x) (hmem ▸ hwf) (hbase ▸ hr)
  rw [hbase] at hin hout
  refine ⟨t, u, hload, hstore, Memory.ext _ _ hwfu hwf fun a => ?_, fun k => hframe.regs k (by simp)⟩
  by_cases ha : a < s.base ∨ s.base + blockSize x ≤ a
  · exact (hout a ha).trans (congrArg (Memory.read · a) hmem)
  · rw [blockSize] at ha
    have hk : (regIx (a - s.base)).toNat = a - s.base := regIx_toNat _ (by omega)
    have hle : (regIx (a - s.base)).toNat ≤ x.toNat := by omega
    have haddr : s.base + (regIx (a - s.base)).toNat = a := by omega
    have hback := (hin _ hle).trans (hloaded _ hle)
    rw [haddr] at hback
    exact hback

/-! ## Sprites (43_display.md) -/

/-- A sprite row has a 1-bit on a screen column: some bit `7 - j` stands `j` columns from its start, around the edge. -/
theorem rowBit_iff {x0 px : Nat} (b : Byte) (h0 : x0 < 64) (hx : px < 64) :
    rowBit x0 b px = true ↔ ∃ j, j < 8 ∧ px = (x0 + j) % 64 ∧ b.getLsbD (7 - j) = true := by
  simp only [rowBit, Bool.and_eq_true, decide_eq_true_eq]
  constructor
  · exact fun ⟨hlt, hbit⟩ => ⟨spriteColumn x0 px, hlt, by simp only [spriteColumn]; omega, hbit⟩
  · rintro ⟨j, hj, hpx, hbit⟩
    have hcol : spriteColumn x0 px = j := by simp only [spriteColumn]; omega
    exact ⟨hcol ▸ hj, hcol ▸ hbit⟩

/-- The bit the sprite of a draw has on a pixel. -/
def State.drawBit (s : State) (x y : RegIx) (n : Count) (px py : Nat) : Bool :=
  spriteBit (s.spriteX x) (s.spriteY y) 0 (s.sprite n) px py

theorem State.spriteX_lt (s : State) (x : RegIx) : s.spriteX x < 64 := Nat.mod_lt _ (by decide)

theorem State.length_sprite_le (s : State) (n : Count) : 0 + (s.sprite n).length ≤ 32 := by
  have := n.isLt
  rw [State.sprite, State.length_bytesAt]
  omega

/-- The bit is set exactly on the pixels that the sprite covers. -/
theorem State.drawBit_iff_covers (s : State) (x y : RegIx) (n : Count) {px : Nat} (hx : px < 64) (py : Nat) :
    s.drawBit x y n px py = true ↔ Covers s x y n px py := by
  rw [State.drawBit, spriteBit_iff]
  constructor
  · rintro ⟨r, b, hb, hpy, hbit⟩
    rw [State.sprite, State.getElem?_bytesAt] at hb
    split at hb
    · next hr =>
      cases hb
      obtain ⟨j, hj, hpx, hbit⟩ := (rowBit_iff _ (s.spriteX_lt x) hx).1 hbit
      exact ⟨r, j, hr, hj, hpx, by rwa [Nat.zero_add] at hpy, hbit⟩
    · cases hb
  · rintro ⟨r, j, hr, hj, hpx, hpy, hbit⟩
    refine ⟨r, s.byteAt (s.base + r), ?_, by rwa [Nat.zero_add], (rowBit_iff _ (s.spriteX_lt x) hx).2 ⟨j, hj, hpx, hbit⟩⟩
    rw [State.sprite, State.getElem?_bytesAt, if_pos hr]

theorem exec_drawSprite (x y : RegIx) (n : Count) (s : State) : exec (.drawSprite x y n) s = withRange s.base n.toNat
    (({ s with pix := (s.drawn x y n).1 } : State).setFlag (flagOf (s.drawn x y n).2)).advance := rfl

theorem flagOf_eq_one_iff (c : Bool) : flagOf c = 1 ↔ c = true := by cases c <;> decide

/-- A draw that stays in memory: each pixel is XORed with the sprite's bit on it, and the flag is 1 exactly when a lit pixel was under
the sprite. -/
theorem exec_drawSprite_spec {s : State} {x y : RegIx} {n : Count} (h : n = 0 ∨ s.base + n.toNat ≤ 4096) :
    ∃ t hit, exec (.drawSprite x y n) s = .next t ∧
      (∀ px py, px < 64 → py < 32 → t.pix.pixel px py = (s.pix.pixel px py ^^ s.drawBit x y n px py)) ∧
      t.reg 15 = flagOf hit ∧
      (hit = true ↔ ∃ px py, px < 64 ∧ py < 32 ∧ s.pix.pixel px py = true ∧ s.drawBit x y n px py = true) ∧
      t.pc = s.pc + 2 ∧ Frame [.pix, .reg 15] s t := by
  have hfits : n.toNat = 0 ∨ s.base + n.toNat ≤ 4096 := h.imp_left (congrArg BitVec.toNat)
  have hlen := s.length_sprite_le n
  refine ⟨_, (s.drawn x y n).2, (exec_drawSprite x y n s).trans (withRange_of_fits _ hfits), fun px py hx hy => ?pixels,
    by simp, ?hit, rfl, ?frame⟩
  case pixels => exact Pix.pixel_xorRows _ _ 0 _ s.pix false px py (s.spriteX_lt x) hx hy hlen
  case hit =>
    have hit := Pix.hit_xorRows (s.spriteX x) (s.spriteY y) 0 (s.sprite n) s.pix false (s.spriteX_lt x) hlen
    rw [Bool.false_eq_true, false_or] at hit
    exact hit
  case frame => exact (((Frame.refl _ s).withPix (by simp) _).setReg (by simp) _).advance

/-- Settles O31: the sprite's bits are on the pixels it covers. -/
theorem drawSpriteXorsPixelByPixel : Obligations.DrawSpriteXorsPixelByPixel := by
  intro s x y n h
  obtain ⟨t, hit, he, hpixel, hflag, hhit, hpc, hframe⟩ := exec_drawSprite_spec (x := x) (y := y) h
  have hhit' : hit = true ↔ ∃ px py, px < 64 ∧ py < 32 ∧ Covers s x y n px py ∧ s.pix.pixel px py = true := by
    rw [hhit]
    constructor
    · rintro ⟨px, py, hx, hy, hlit, hbit⟩
      exact ⟨px, py, hx, hy, (s.drawBit_iff_covers x y n hx py).1 hbit, hlit⟩
    · rintro ⟨px, py, hx, hy, hcov, hlit⟩
      exact ⟨px, py, hx, hy, hlit, (s.drawBit_iff_covers x y n hx py).2 hcov⟩
  refine ⟨t, he, fun px py hx hy => ⟨fun hcov => ?_, fun hnot => ?_⟩, fun hex => ?_, fun hnone => ?_, hpc, hframe⟩
  · rw [hpixel px py hx hy, (s.drawBit_iff_covers x y n hx py).2 hcov, Bool.xor_true]
  · rw [hpixel px py hx hy, Bool.eq_false_iff.2 (mt (s.drawBit_iff_covers x y n hx py).1 hnot), Bool.xor_false]
  · rw [hflag, hhit'.2 hex]
    rfl
  · rw [hflag, Bool.eq_false_iff.2 (mt hhit'.1 hnone)]
    rfl

/-- The sprite of a draw depends on its coordinate registers, `I` and memory only. -/
theorem drawBit_of_frame {s t : State} {x y : RegIx} (hx : x ≠ 15) (hy : y ≠ 15) (h : Frame [.pix, .reg 15] s t) (n : Count) :
    t.drawBit x y n = s.drawBit x y n := by
  have hregx : t.reg x = s.reg x := h.regs x (by simpa using hx)
  have hregy : t.reg y = s.reg y := h.regs y (by simpa using hy)
  have hi : t.i = s.i := h.i (by simp)
  have hbyte : t.byteAt = s.byteAt := funext (h.mem (by simp))
  funext px py
  simp only [State.drawBit, State.spriteX, State.spriteY, State.sprite, State.bytesAt, State.base, hregx, hregy, hi, hbyte]

/-- Settles O32: the same bits XORed twice cancel, and the second draw finds lit what the first one found unlit. -/
theorem drawingTwiceRestoresThePixels : Obligations.DrawingTwiceRestoresThePixels := by
  intro s x y n hx hy h
  obtain ⟨t, -, het, htpixel, -, -, -, htframe⟩ := exec_drawSprite_spec (x := x) (y := y) h
  have hbase : t.base = s.base := congrArg BitVec.toNat (htframe.i (by simp))
  obtain ⟨u, hit, heu, hupixel, hflag, hhit, -, -⟩ := exec_drawSprite_spec (s := t) (x := x) (y := y) (hbase ▸ h)
  rw [drawBit_of_frame hx hy htframe] at hupixel hhit
  refine ⟨t, u, het, heu, Pix.ext_pixel fun px py hpx hpy => ?_, ?_⟩
  · rw [hupixel px py hpx hpy, htpixel px py hpx hpy, Bool.xor_assoc, Bool.xor_self, Bool.xor_false]
  · rw [hflag, flagOf_eq_one_iff, hhit]
    refine exists_congr fun px => exists_congr fun py => ?_
    refine and_congr_right fun hpx => and_congr_right fun hpy => ?_
    rw [htpixel px py hpx hpy, ← s.drawBit_iff_covers x y n hpx py]
    cases s.pix.pixel px py <;> cases s.drawBit x y n px py <;> simp

end Sys2Proof.Machine
